-- ==== Sys2Proof/Word.lean ====
section
/-! DEFINITION. The closed set of container widths (10_state.md R20, R22) and their plainest arithmetic. -/

namespace Sys2Proof

/-- The six widths a container may have (10_state.md R20; 90_conflicts.md C1 keeps 128). -/
inductive Width where
  | w8 | w16 | w32 | w64 | w128 | w256
  deriving DecidableEq, Repr

/-- `bits(w)`, the bit count of a width (10_state.md R20). -/
def Width.bits : Width → Nat
  | .w8 => 8
  | .w16 => 16
  | .w32 => 32
  | .w64 => 64
  | .w128 => 128
  | .w256 => 256

/-- `nwords(w) = ⌈w/64⌉` (10_state.md R22). -/
def Width.nwords : Width → Nat
  | .w8 | .w16 | .w32 | .w64 => 1
  | .w128 => 2
  | .w256 => 4

/-- The width of one word of a container: the whole container up to 64 bits, else 64 (10_state.md R22). -/
def Width.wordBits : Width → Nat
  | .w8 => 8
  | .w16 => 16
  | .w32 => 32
  | .w64 | .w128 | .w256 => 64

end Sys2Proof
end

