-- ==== Sys2Proof/Config.lean ====
section
/-! DEFINITION. What an implementation fixes (00_scope.md R10), and the one free value: the storage oracle. -/

namespace Sys2Proof

/-- The parameters of the block (00_scope.md R10): NMAX and the capacity of every slot.
NSLOT is the number of capacities. The bounds the rule gives travel with the data. -/
structure Config where
  /-- NMAX, the largest target count of one view. -/
  nmax : Nat
  /-- `slotCap(t)` for t = 0, 1, …, NSLOT−1. -/
  slotCaps : List Width
  nmax_pos : 1 ≤ nmax
  nmax_le : nmax ≤ 63
  nslot_pos : 1 ≤ slotCaps.length
  nslot_le : slotCaps.length ≤ 256
  deriving DecidableEq, Repr

/-- NSLOT (00_scope.md R10). -/
def Config.nslot (cfg : Config) : Nat := cfg.slotCaps.length

/-- `slotCap(t)`, none where t names no slot (10_state.md R25, 41_multitarget.md R132). -/
def Config.slotCap (cfg : Config) (t : Nat) : Option Width := cfg.slotCaps[t]?

/-- The configuration of `State.reset`. DESIGN CHOICE (log 2), unsafe: the spec leaves the parameters open.
NMAX is the largest value 00_scope.md R10 allows, the slots are those of 95_test_vectors.md.
No statement about all states depends on it. -/
def Config.atReset : Config where
  nmax := 63
  slotCaps := [.w64, .w64, .w64, .w128, .w256, .w8, .w64, .w64]
  nmax_pos := by decide
  nmax_le := by decide
  nslot_pos := by decide
  nslot_le := by decide

/-- The storage oracle's answer to store attempt `draw` on slot `handle`: a free draw under no law
(00_scope.md R10, 20_memory.md R63, 93_implementation_defined.md I2). Free value (log 3), safe. -/
opaque Config.storeAccept (draw handle : Nat) : Bool

end Sys2Proof
end

