-- ==== Sys2Proof/Syntax.lean ====
section
/-! DEFINITION. The commands of the block, one constructor per row of spec/opcode_table.json (30_encoding.md R82). -/

namespace Sys2Proof

/-- A decoded command with its operands as plain unsigned fields (30_encoding.md R89): the width `w`,
the bit index `b` (IDX), the view's entry count `n` (NT) and the value `v` (V). -/
inductive Instr where
  /-- GET w, b: read one bit of the container in CIN (40_container.md R110). -/
  | get (w : Width) (b : BitVec 16)
  /-- SET w, b, v: write one bit of the container in CIN, result in COUT (40_container.md R111). -/
  | set (w : Width) (b : BitVec 16) (v : Bool)
  /-- READ w, n, b: tri-state consensus read over the view (41_multitarget.md R140). -/
  | read (w : Width) (n : BitVec 6) (b : BitVec 16)
  /-- HASDIS w, n, b: does the view disagree (41_multitarget.md R141). -/
  | hasdis (w : Width) (n : BitVec 6) (b : BitVec 16)
  /-- WRITEALL w, n, b, v: write the bit in every target of the view (41_multitarget.md R145). -/
  | writeall (w : Width) (n : BitVec 6) (b : BitVec 16) (v : Bool)
  deriving DecidableEq, Repr

end Sys2Proof
end

