-- ==== Sys2Proof/WellFormed.lean ====
section
/-! DEFINITION. The one check on a command's operands that their types do not carry: NT ≤ NMAX (30_encoding.md R84, R88). -/

namespace Sys2Proof

/-- A view command's entry count is at most NMAX (30_encoding.md R88, last clause). NT = 0 is well formed:
it decodes, and gives EmptyViewError when it runs (30_encoding.md R84). Every width, index and value is
encodable, so nothing else can be ill formed. -/
def Instr.wellFormed (nmax : Nat) : Instr → Bool
  | .get _ _ => true
  | .set _ _ _ => true
  | .read _ n _ => decide (n.toNat ≤ nmax)
  | .hasdis _ n _ => decide (n.toNat ≤ nmax)
  | .writeall _ n _ _ => decide (n.toNat ≤ nmax)

end Sys2Proof
end

