-- ==== Sys2Proof/Decode.lean ====
section
/-! DEFINITION. The command word (30_encoding.md R80 to R89): its fields, the decoder, total over every 32-bit
word, and the encoder. -/

namespace Sys2Proof

/-- Why a word is IllegalCommand, clause by clause of 30_encoding.md R88. -/
inductive Illegal where
  /-- OP ∉ 0x1 … 0x5. -/
  | reservedOpcode
  /-- WC ∈ 6, 7. -/
  | reservedWidth
  /-- RSV ≠ 0. -/
  | reservedBits
  /-- A field that R87 says must be 0 is not. -/
  | unusedField
  /-- A view command with NT > NMAX. -/
  | tooManyTargets
  deriving DecidableEq, Repr

/-- The result of decoding: a command, or IllegalCommand with its cause (30_encoding.md R88). -/
inductive Decoded where
  | command (i : Instr)
  | illegal (why : Illegal)
  deriving DecidableEq, Repr

/-- OP, bits [3:0] (30_encoding.md R80). -/
def opField (c : BitVec 32) : BitVec 4 := c.extractLsb' 0 4
/-- WC, bits [6:4]. -/
def wcField (c : BitVec 32) : BitVec 3 := c.extractLsb' 4 3
/-- V, bit [7]. -/
def vField (c : BitVec 32) : BitVec 1 := c.extractLsb' 7 1
/-- NT, bits [13:8]. -/
def ntField (c : BitVec 32) : BitVec 6 := c.extractLsb' 8 6
/-- RSV, bits [15:14]. -/
def rsvField (c : BitVec 32) : BitVec 2 := c.extractLsb' 14 2
/-- IDX, bits [31:16]. -/
def idxField (c : BitVec 32) : BitVec 16 := c.extractLsb' 16 16

/-- `wc(w)`, the width code (30_encoding.md R81). -/
def wcOf : Width → BitVec 3
  | .w8 => 0b000#3
  | .w16 => 0b001#3
  | .w32 => 0b010#3
  | .w64 => 0b011#3
  | .w128 => 0b100#3
  | .w256 => 0b101#3

/-- `width(WC)`: the width a code names; 6 and 7 name none (30_encoding.md R81). -/
def widthOf (wc : BitVec 3) : Option Width :=
  match wc.toNat with
  | 0 => some .w8
  | 1 => some .w16
  | 2 => some .w32
  | 3 => some .w64
  | 4 => some .w128
  | 5 => some .w256
  | _ => none

/-- The clauses of 30_encoding.md R88 that are shared by every opcode, and then the opcode's own unused
fields (R87) and NT ≤ NMAX. R88 makes a word illegal iff some clause holds, so the order of the clauses
only picks which cause is named. -/
def decode (nmax : Nat) (c : BitVec 32) : Decoded :=
  if rsvField c ≠ 0#2 then .illegal .reservedBits
  else match widthOf (wcField c) with
    | none => .illegal .reservedWidth
    | some w =>
      match (opField c).toNat with
      | 1 => if vField c ≠ 0#1 ∨ ntField c ≠ 0#6 then .illegal .unusedField
             else .command (.get w (idxField c))
      | 2 => if ntField c ≠ 0#6 then .illegal .unusedField
             else .command (.set w (idxField c) (vField c == 1#1))
      | 3 => if vField c ≠ 0#1 then .illegal .unusedField
             else if nmax < (ntField c).toNat then .illegal .tooManyTargets
             else .command (.read w (ntField c) (idxField c))
      | 4 => if vField c ≠ 0#1 then .illegal .unusedField
             else if nmax < (ntField c).toNat then .illegal .tooManyTargets
             else .command (.hasdis w (ntField c) (idxField c))
      | 5 => if nmax < (ntField c).toNat then .illegal .tooManyTargets
             else .command (.writeall w (ntField c) (idxField c) (vField c == 1#1))
      | _ => .illegal .reservedOpcode

/-- The instruction the decoder reads from an opcode-table word. The table gives every row 32 bits; the
decoder runs with the NMAX of the configuration of State.reset, the largest one (log 2, log 12). -/
def decodeTableWord (nbits w : Nat) : Option Instr :=
  match decode Config.atReset.nmax (BitVec.ofNat 32 (w % 2 ^ nbits)) with
  | .command i => some i
  | .illegal _ => none

/-- `CMD = (IDX, RSV, NT, V, WC, OP)` with RSV = 0, most significant field first (30_encoding.md R80). -/
def encodeFields (op : BitVec 4) (wc : BitVec 3) (v : BitVec 1) (nt : BitVec 6) (idx : BitVec 16) : BitVec 32 :=
  idx ++ 0#2 ++ nt ++ v ++ wc ++ op

/-- The word of a command: the opcode of 30_encoding.md R82, unused fields 0 (R87). -/
def encode : Instr → BitVec 32
  | .get w b => encodeFields 0x1#4 (wcOf w) 0#1 0#6 b
  | .set w b v => encodeFields 0x2#4 (wcOf w) (BitVec.ofBool v) 0#6 b
  | .read w n b => encodeFields 0x3#4 (wcOf w) 0#1 n b
  | .hasdis w n b => encodeFields 0x4#4 (wcOf w) 0#1 n b
  | .writeall w n b v => encodeFields 0x5#4 (wcOf w) (BitVec.ofBool v) n b

/-- SETB, a spelling of SET with value 1 (30_encoding.md R93). -/
def setb (w : Width) (b : BitVec 16) : Instr := .set w b true
/-- CLRB, a spelling of SET with value 0 (30_encoding.md R93). -/
def clrb (w : Width) (b : BitVec 16) : Instr := .set w b false
/-- WSETB, a spelling of WRITEALL with value 1 (30_encoding.md R93). -/
def wsetb (w : Width) (n : BitVec 6) (b : BitVec 16) : Instr := .writeall w n b true
/-- WCLRB, a spelling of WRITEALL with value 0 (30_encoding.md R93). -/
def wclrb (w : Width) (n : BitVec 6) (b : BitVec 16) : Instr := .writeall w n b false

end Sys2Proof
end

