-- ==== Sys2Proof/Machine/State.lean ====
section
/-! DEFINITION. The state of the block as plain data: the register file (10_state.md R33), the hidden unit state
(R46), the target slots (R25), the configuration (00_scope.md R10), and the host's side of the interface. -/

namespace Sys2Proof.Machine

/-- One slot cell: a handle and the slot's container, zero-extended to 256 bits. The slot space is addressed
by handle and nothing smaller than a container is addressable (20_memory.md R60), so a cell holds a whole
container and no byte order is chosen (R66). Log 1. -/
abbrev SlotCell := Nat × BitVec 256

/-- The slot contents in canonical form: handles strictly rising, no cell equal to what an unlisted handle
reads as, which is 0 (log 1). -/
abbrev SlotMemory := List SlotCell

/-- The phases of a command (10_state.md R46). -/
inductive Phase where
  | check | load | store | finish
  deriving DecidableEq, Repr

/-- The reduction accumulators `acc = (b0, all, any)` of READ and HASDIS (10_state.md R46). -/
structure Acc where
  b0 : Bool
  all : Bool
  any : Bool
  deriving DecidableEq, Repr

/-- The snapshot taken at command start (41_multitarget.md R150): decode(c), CINTAG, CIN3..CIN0 as one value
(10_state.md R34), and the handles TGT[0..min(NT, NMAX)−1]. -/
structure Snapshot where
  decoded : Decoded
  cinTag : BitVec 3
  cin : BitVec 256
  handles : List (BitVec 8)
  deriving DecidableEq, Repr

/-- `Run(s, i, ph, tmp)` with the accumulators (10_state.md R46). `tmp : BitVec W` is held zero-extended to
256 bits. At command start tmp and acc are '–' in the spec; the model holds 0 and falses (log 10). -/
structure RunState where
  snap : Snapshot
  i : Nat
  ph : Phase
  tmp : BitVec 256
  acc : Acc
  deriving DecidableEq, Repr

/-- The hidden unit state U (10_state.md R46). -/
inductive UnitState where
  | idle
  | run (r : RunState)
  deriving DecidableEq, Repr

/-- What the host can do to the block (70_reset_and_hazards.md R215, 30_encoding.md R94). -/
inductive HostAccess where
  /-- RD: read the register with number `n`. -/
  | readReg (n : BitVec 8)
  /-- WR: write the register with number `n`; a register narrower than 64 bits takes the low bits (log 7). -/
  | writeReg (n : BitVec 8) (v : BitVec 64)
  /-- Load slot `t`. -/
  | loadSlot (t : BitVec 8)
  /-- Store a whole container to slot `t`; the slot takes the low bits(slotCap t) bits (log 7). -/
  | storeSlot (t : BitVec 8) (v : BitVec 256)
  /-- Store a container held in signed form to slot `t` (20_memory.md R69). -/
  | storeSigned (t : BitVec 8) (z : Int)
  deriving DecidableEq, Repr

/-- One turn of the total order of 20_memory.md R73. Log 4. -/
inductive Turn where
  /-- The unit takes one unit step, if it has one. -/
  | unit
  /-- The host makes one access. -/
  | host (a : HostAccess)
  /-- WAIT: the host reads STATUS until BUSY = 0 (30_encoding.md R94); the unit moves meanwhile. -/
  | wait
  /-- The block is reset (70_reset_and_hazards.md R200 to R202). -/
  | reset
  deriving DecidableEq, Repr

/-- The whole machine. -/
structure State where
  /-- NSLOT, NMAX and slotCap (00_scope.md R10); no step changes it. -/
  cfg : Config
  /-- CMD, register 0x00. -/
  cmd : BitVec 32
  /-- STATUS, register 0x01 (10_state.md R36 to R42). -/
  status : BitVec 16
  /-- CINTAG, register 0x02. -/
  cinTag : BitVec 3
  /-- COUTTAG, register 0x03. -/
  coutTag : BitVec 3
  /-- CIN0, register 0x04. -/
  cin0 : BitVec 64
  /-- CIN1, register 0x05. -/
  cin1 : BitVec 64
  /-- CIN2, register 0x06. -/
  cin2 : BitVec 64
  /-- CIN3, register 0x07. -/
  cin3 : BitVec 64
  /-- COUT0, register 0x08. -/
  cout0 : BitVec 64
  /-- COUT1, register 0x09. -/
  cout1 : BitVec 64
  /-- COUT2, register 0x0A. -/
  cout2 : BitVec 64
  /-- COUT3, register 0x0B. -/
  cout3 : BitVec 64
  /-- WOK, register 0x0C. -/
  wok : BitVec 64
  /-- WFAIL, register 0x0D. -/
  wfail : BitVec 64
  /-- TGT[0..NMAX−1], registers 0x10 + i. -/
  tgt : List (BitVec 8)
  /-- U, the hidden unit state (10_state.md R46). -/
  unit : UnitState
  /-- The slots' contents (10_state.md R25), caller-owned. -/
  slots : SlotMemory
  /-- MODEL: the pending turns of host and unit; when empty, the unit alone moves (log 4). -/
  turns : List Turn
  /-- MODEL: store answers the host has already fixed, used first (log 3). -/
  answers : List Bool
  /-- MODEL: how many store attempts were answered; picks the free value (log 3). -/
  draws : Nat
  /-- MODEL: what the last host read gave back (log 6). -/
  hostRead : BitVec 256
  deriving DecidableEq, Repr

/-- Every register at its reset value and the unit idle (70_reset_and_hazards.md R200), with a given
configuration and given slot contents: the launch state (R201), the host silent. -/
def State.launch (cfg : Config) (slots : SlotMemory) : State where
  cfg := cfg
  cmd := 0
  status := 0
  cinTag := 0
  coutTag := 0
  cin0 := 0
  cin1 := 0
  cin2 := 0
  cin3 := 0
  cout0 := 0
  cout1 := 0
  cout2 := 0
  cout3 := 0
  wok := 0
  wfail := 0
  tgt := List.replicate cfg.nmax 0
  unit := .idle
  slots := slots
  turns := []
  answers := []
  draws := 0
  hostRead := 0

/-- The machine right after reset (70_reset_and_hazards.md R200), with the configuration of log 2 and no slot
listed (log 1). -/
def State.reset : State := State.launch Config.atReset []

/-- Why a run stops. Each is raised by no correct host; a command error is never one of these, it is a code in
STATUS.ERR (60_exceptions.md R178). -/
inductive Fault where
  /-- Raised by a host load or store of a slot the running view lists (70_reset_and_hazards.md R210). Safe:
  the model stops where the outcome is not defined. -/
  | targetRace
  /-- Raised by a host register write while BUSY = 1 (70_reset_and_hazards.md R211). Safe. -/
  | writeWhileBusy
  /-- Raised by a host slot access to a handle ≥ NSLOT, which names no slot (20_memory.md R60, R70; log 9). Safe. -/
  | noSuchSlot
  /-- Raised by an instruction's meaning in a phase for which 41_multitarget.md R151 and R152 give it no unit
  step; no reachable state raises it (log 11). Safe. -/
  | noEnabledStep
  deriving DecidableEq, Repr

/-- Why the model gives no meaning. -/
inductive Refusal where
  /-- Raised by an arm of exec whose instruction has no meaning yet; there is none left. Safe. -/
  | notModelled (mnemonic : String)
  deriving DecidableEq, Repr

/-- The outcome of a step or of a meaning. -/
abbrev Result := Host.Outcome State Fault Refusal

end Sys2Proof.Machine
end

