-- ==== Sys2Proof/Machine/Flags.lean ====
section
/-! DEFINITION. The fields of STATUS (10_state.md R36 to R42), the error codes (60_exceptions.md R170), and the
consensus reductions whose results they hold (41_multitarget.md R135 to R138). -/

namespace Sys2Proof.Machine

/-- `v` with the bits [lo + w − 1 : lo] replaced by `x`, every other bit kept. -/
def setField (v : BitVec 16) (lo : Nat) {w : Nat} (x : BitVec w) : BitVec 16 :=
  (v &&& ~~~((BitVec.allOnes w).setWidth 16 <<< lo)) ||| (x.setWidth 16 <<< lo)

/-- STATUS.BUSY, bit 0 (10_state.md R36). -/
def statusBusy (v : BitVec 16) : Bool := v.getLsbD 0
/-- STATUS.ERR, bits [3:1] (10_state.md R37). -/
def statusErr (v : BitVec 16) : BitVec 3 := v.extractLsb' 1 3
/-- STATUS.BIT, bit 4 (10_state.md R38). -/
def statusBit (v : BitVec 16) : Bool := v.getLsbD 4
/-- STATUS.TRI, bits [6:5] (10_state.md R39). -/
def statusTri (v : BitVec 16) : BitVec 2 := v.extractLsb' 5 2
/-- STATUS.DIS, bit 7 (10_state.md R40). -/
def statusDis (v : BitVec 16) : Bool := v.getLsbD 7
/-- STATUS.ALL, bit 8 (10_state.md R41). -/
def statusAll (v : BitVec 16) : Bool := v.getLsbD 8
/-- STATUS.ANY, bit 9 (10_state.md R42). -/
def statusAny (v : BitVec 16) : Bool := v.getLsbD 9
/-- STATUS[15:10], hardwired 0 (10_state.md R42). -/
def statusReserved (v : BitVec 16) : BitVec 6 := v.extractLsb' 10 6

/-- The error codes; 6 and 7 are never produced, so the type has none (60_exceptions.md R170). -/
inductive ErrCode where
  | ok | range | capacityMismatch | partialWrite | emptyView | illegalCommand
  deriving DecidableEq, Repr

/-- The code in STATUS.ERR (60_exceptions.md R170). -/
def errBits : ErrCode → BitVec 3
  | .ok => 0#3
  | .range => 1#3
  | .capacityMismatch => 2#3
  | .partialWrite => 3#3
  | .emptyView => 4#3
  | .illegalCommand => 5#3

/-- `STATUS.ERR <- e ; STATUS.BUSY <- 0`: how every command ends (00_scope.md R15, 60_exceptions.md R178). -/
def endStatus (e : ErrCode) (v : BitVec 16) : BitVec 16 :=
  setField (setField v 1 (errBits e)) 0 0#1

/-- The STATUS a command start writes: BUSY = 1, every other field 0 (10_state.md R43). -/
def startStatus : BitVec 16 := 0x0001#16

/-- The result of a READ (41_multitarget.md R138). -/
inductive TriState where
  | allFalse | allTrue | mixed
  deriving DecidableEq, Repr

/-- 0b00 false, 0b01 true, 0b10 mixed (10_state.md R39). -/
def triBits : TriState → BitVec 2
  | .allFalse => 0b00#2
  | .allTrue => 0b01#2
  | .mixed => 0b10#2

/-- The accumulators after entry `i` with bit `x` (41_multitarget.md R151, Load). -/
def accStep (i : Nat) (acc : Acc) (x : Bool) : Acc :=
  if i = 0 then ⟨x, x, x⟩ else ⟨acc.b0, acc.all && x, acc.any || x⟩

/-- `DIS = (acc.all ≠ acc.any)` (41_multitarget.md R151, Finish). -/
def accDis (acc : Acc) : Bool := acc.all != acc.any

/-- `TRI = mixed` if DIS, else b_0 (41_multitarget.md R138). -/
def accTri (acc : Acc) : TriState :=
  if accDis acc then .mixed else if acc.b0 then .allTrue else .allFalse

/-- GET writes BIT and ends with ERR = 0 (40_container.md R110). -/
def getStatus (x : Bool) (v : BitVec 16) : BitVec 16 :=
  endStatus .ok (setField v 4 (BitVec.ofBool x))

/-- `STATUS.ALL <- ALL ; STATUS.ANY <- ANY` (41_multitarget.md R140, R141). -/
def reductionStatus (acc : Acc) (v : BitVec 16) : BitVec 16 :=
  setField (setField v 8 (BitVec.ofBool acc.all)) 9 (BitVec.ofBool acc.any)

/-- READ writes TRI, ALL and ANY and ends with ERR = 0 (41_multitarget.md R140). -/
def readStatus (acc : Acc) (v : BitVec 16) : BitVec 16 :=
  endStatus .ok (reductionStatus acc (setField v 5 (triBits (accTri acc))))

/-- HASDIS writes DIS, ALL and ANY and ends with ERR = 0 (41_multitarget.md R141). -/
def hasdisStatus (acc : Acc) (v : BitVec 16) : BitVec 16 :=
  endStatus .ok (reductionStatus acc (setField v 7 (BitVec.ofBool (accDis acc))))

/-- The error code of a WRITEALL: PartialWriteError iff WFAIL ≠ 0 (41_multitarget.md R149). -/
def writeallErr (wfail : BitVec 64) : ErrCode :=
  if wfail = 0#64 then .ok else .partialWrite

end Sys2Proof.Machine
end

