-- ==== Sys2Proof/Machine/Operands.lean ====
section
/-! DEFINITION. The datapath over containers (40_container.md R100 to R104), signed storage (20_memory.md R69),
and the operands a command reads: CIN, COUT and the snapshot (10_state.md R34, 41_multitarget.md R150). -/

namespace Sys2Proof.Machine

/-- `word_k(c)` (40_container.md R100): the whole container for W ≤ 64, else bits [64k+63 : 64k]. -/
def wordOf (w : Width) (c : BitVec w.bits) (k : Nat) : BitVec w.wordBits :=
  c.extractLsb' (64 * k) w.wordBits

/-- `mask(W, b) = 1 << (b mod 64)` at the word's width (40_container.md R101). -/
def maskOf (w : Width) (b : Nat) : BitVec w.wordBits :=
  1#w.wordBits <<< (b % 64)

/-- `bitGet(W, c, b)` (40_container.md R102). -/
def bitGet (w : Width) (c : BitVec w.bits) (b : Nat) : Bool :=
  (wordOf w c (b / 64) &&& maskOf w b) != 0#w.wordBits

/-- `c` with word `k` replaced by `x`, every other word kept (40_container.md R103). -/
def replaceWord (w : Width) (c : BitVec w.bits) (k : Nat) (x : BitVec w.wordBits) : BitVec w.bits :=
  (c &&& ~~~((BitVec.allOnes w.wordBits).setWidth w.bits <<< (64 * k)))
    ||| (x.setWidth w.bits <<< (64 * k))

/-- `bitSet(W, c, b, v)` in its word form: one word is read, masked and replaced (40_container.md R103). -/
def bitSet (w : Width) (c : BitVec w.bits) (b : Nat) (v : Bool) : BitVec w.bits :=
  let wk := wordOf w c (b / 64)
  let wk' := if v then wk ||| maskOf w b else wk &&& ~~~(maskOf w b)
  replaceWord w c (b / 64) wk'

/-- `data = s mod 2^W`: the container of a slot held as a signed integer (20_memory.md R69). -/
def ofSigned (w : Width) (z : Int) : BitVec w.bits := BitVec.ofInt w.bits z

/-- The signed integer with the same bits as a container (20_memory.md R69). -/
def toSigned (w : Width) (c : BitVec w.bits) : Int := c.toInt

/-- `CIN = (CIN3, CIN2, CIN1, CIN0)`, CIN0 least significant (10_state.md R34). -/
def cinValue (s : State) : BitVec 256 := s.cin3 ++ s.cin2 ++ s.cin1 ++ s.cin0

/-- `COUT = (COUT3, COUT2, COUT1, COUT0)` (10_state.md R34). -/
def coutValue (s : State) : BitVec 256 := s.cout3 ++ s.cout2 ++ s.cout1 ++ s.cout0

/-- `COUT <- v ; COUTTAG <- tag` (40_container.md R111), word 0 in COUT0 (20_memory.md R65). -/
def State.withCout (s : State) (tag : BitVec 3) (v : BitVec 256) : State :=
  { s with
    cout0 := v.extractLsb' 0 64
    cout1 := v.extractLsb' 64 64
    cout2 := v.extractLsb' 128 64
    cout3 := v.extractLsb' 192 64
    coutTag := tag }

/-- The operands a command of word `c` runs on (41_multitarget.md R150). -/
def snapshot (c : BitVec 32) (s : State) : Snapshot where
  decoded := decode s.cfg.nmax c
  cinTag := s.cinTag
  cin := cinValue s
  handles := s.tgt.take (min (ntField c).toNat s.cfg.nmax)

/-- The container operand `c = CIN[bits(W)−1 : 0]`; higher bits are ignored (40_container.md R107). -/
def containerOperand (w : Width) (snap : Snapshot) : BitVec w.bits := snap.cin.setWidth w.bits

/-- The check of GET and SET (40_container.md R106): the tag first, then the index. -/
def containerCheck (w : Width) (b : Nat) (snap : Snapshot) : Option ErrCode :=
  if snap.cinTag ≠ wcOf w then some .capacityMismatch
  else if w.bits ≤ b then some .range
  else none

/-- View construction (41_multitarget.md R131), in the order of 60_exceptions.md R176: a handle that names no
slot, an empty view, a capacity other than W, an index out of range. Reads no slot's data. -/
def viewCheck (cfg : Config) (w : Width) (n : Nat) (b : Nat) (snap : Snapshot) : Option ErrCode :=
  if snap.handles.any (fun t => decide (cfg.nslot ≤ t.toNat)) then some .illegalCommand
  else if n = 0 then some .emptyView
  else if snap.handles.any (fun t => decide (cfg.slotCap t.toNat ≠ some w)) then some .capacityMismatch
  else if w.bits ≤ b then some .range
  else none

end Sys2Proof.Machine
end

