-- ==== Sys2Proof/Machine/Ops.lean ====
section
/-! DEFINITION. The shared operations: slot memory, MemRead and MemWrite (20_memory.md R62, R63), raising an error
(00_scope.md R15), command start (10_state.md R43), and the unit steps that several commands share
(41_multitarget.md R151, R152). -/

namespace Sys2Proof.Machine

/-- What handle `t` holds, zero-extended to 256 bits; an unlisted handle holds 0 (log 1). -/
def slotLookup : SlotMemory → Nat → BitVec 256
  | [], _ => 0#256
  | (a, x) :: rest, t => if a = t then x else slotLookup rest t

/-- Handle `t` now holds `v`; the canonical form is kept (a cell that would hold 0 is not listed). -/
def slotUpdate : SlotMemory → Nat → BitVec 256 → SlotMemory
  | [], t, v => if v = 0#256 then [] else [(t, v)]
  | (a, x) :: rest, t, v =>
    if t < a then (if v = 0#256 then (a, x) :: rest else (t, v) :: (a, x) :: rest)
    else if t = a then (if v = 0#256 then rest else (t, v) :: rest)
    else (a, x) :: slotUpdate rest t v

/-- The canonical form of the slot memory (log 1): handles strictly rising, no cell holding 0. -/
abbrev Memory.wf (m : SlotMemory) : Prop :=
  m.Pairwise (fun c d => c.1 < d.1) ∧ ∀ c ∈ m, c.2 ≠ 0#256

/-- `MemRead(t, W)`: slot t's whole container. Never fails, no side effect (20_memory.md R62). -/
def memRead (w : Width) (t : BitVec 8) (s : State) : BitVec w.bits :=
  (slotLookup s.slots t.toNat).setWidth w.bits

/-- Slot `t` now holds the container `v`, whole (20_memory.md R63, R67). -/
def State.withSlot (s : State) (t : BitVec 8) {w : Width} (v : BitVec w.bits) : State :=
  { s with slots := slotUpdate s.slots t.toNat (v.setWidth 256) }

/-- The storage oracle's answer to the next store, on slot `t` (20_memory.md R63): the host's own next answer
where it has fixed one, else the free value (log 3). -/
def storeAnswer (t : BitVec 8) (s : State) : Bool :=
  match s.answers with
  | a :: _ => a
  | [] => Config.storeAccept s.draws t.toNat

/-- The oracle has answered once. -/
def State.afterDraw (s : State) : State :=
  { s with answers := s.answers.tail, draws := s.draws + 1 }

/-- `MemWrite(t, W, v)`: one draw; accepted, the slot is replaced whole and the answer is ok (true); rejected,
the slot is unchanged and the answer is fail (false) (20_memory.md R63). -/
def memWrite (w : Width) (t : BitVec 8) (v : BitVec w.bits) (s : State) : State × Bool :=
  if storeAnswer t s then ((s.afterDraw).withSlot t v, true) else (s.afterDraw, false)

/-- The command ends with error code `e` (or OK) in STATUS, which is given (60_exceptions.md R178). -/
def State.finishWith (s : State) (status : BitVec 16) : State :=
  { s with status := status, unit := .idle }

/-- `raise e` (00_scope.md R15): STATUS.ERR ← the code, STATUS.BUSY ← 0, U ← Idle, everything else as it is.
This is the block's whole exception entry (60_exceptions.md R178). There is no trap return (R179): the next
command start clears ERR. -/
def raiseError (e : ErrCode) (s : State) : State :=
  s.finishWith (endStatus e s.status)

/-- Command start (10_state.md R43, 41_multitarget.md R150): one action, before any check. -/
def commandStart (c : BitVec 32) (s : State) : State :=
  { s with
    cmd := c
    status := startStatus
    wok := 0#64
    wfail := 0#64
    unit := .run { snap := snapshot c s, i := 0, ph := .check, tmp := 0#256, acc := ⟨false, false, false⟩ } }

/-- The unit goes on with `r`. -/
def State.withRun (s : State) (r : RunState) : State := { s with unit := .run r }

/-- The pending turns are now `l` (log 4). -/
def State.withTurns (s : State) (l : List Turn) : State := { s with turns := l }

/-- Run `f` on the unit's run state; an idle unit has no step (60_exceptions.md R187; log 11). -/
def onRun (s : State) (f : RunState → Result) : Result :=
  match s.unit with
  | .idle => .fault .noEnabledStep
  | .run r => f r

/-- The Check step of GET and SET (41_multitarget.md R151): the check of R106, then `f`. -/
def containerStep (w : Width) (b : BitVec 16) (s : State) (f : BitVec w.bits → State) : Result :=
  onRun s fun r =>
    match r.ph with
    | .check =>
      match containerCheck w b.toNat r.snap with
      | some e => .next (raiseError e s)
      | none => .next (f (containerOperand w r.snap))
    | _ => .fault .noEnabledStep

/-- The Check step of a view command (41_multitarget.md R151): the checks of R131, else on to Load at 0. -/
def viewCheckStep (w : Width) (n : BitVec 6) (b : BitVec 16) (r : RunState) (s : State) : Result :=
  match viewCheck s.cfg w n.toNat b.toNat r.snap with
  | some e => .next (raiseError e s)
  | none => .next (s.withRun { r with ph := .load, i := 0 })

/-- The Load step of READ and HASDIS at entry i, with the short-circuit (41_multitarget.md R139, R151). -/
def consensusLoad (w : Width) (n : BitVec 6) (b : BitVec 16) (r : RunState) (s : State) : Result :=
  match r.snap.handles[r.i]? with
  | none => .fault .noEnabledStep
  | some t =>
    let acc := accStep r.i r.acc (bitGet w (memRead w t s) b.toNat)
    let ph := if r.i + 1 = n.toNat ∨ accDis acc = true then .finish else .load
    .next (s.withRun { r with i := r.i + 1, ph := ph, acc := acc })

/-- READ and HASDIS: their steps differ only in the STATUS their Finish writes (41_multitarget.md R151). -/
def consensusStep (w : Width) (n : BitVec 6) (b : BitVec 16) (s : State)
    (finish : Acc → BitVec 16 → BitVec 16) : Result :=
  onRun s fun r =>
    match r.ph with
    | .check => viewCheckStep w n b r s
    | .load => consensusLoad w n b r s
    | .store => .fault .noEnabledStep
    | .finish => .next (s.finishWith (finish r.acc s.status))

/-- The Load step of WRITEALL at entry i (41_multitarget.md R152). -/
def writeallLoad (w : Width) (r : RunState) (s : State) : Result :=
  match r.snap.handles[r.i]? with
  | none => .fault .noEnabledStep
  | some t => .next (s.withRun { r with tmp := (memRead w t s).setWidth 256, ph := .store })

/-- WOK[i] ← 1 where the store was accepted, WFAIL[i] ← 1 where it was rejected (41_multitarget.md R148). -/
def State.report (s : State) (i : Nat) (ok : Bool) : State :=
  if ok then { s with wok := s.wok ||| (1#64 <<< i) } else { s with wfail := s.wfail ||| (1#64 <<< i) }

/-- The store of one entry: MemWrite and the report, going on whatever the answer was (41_multitarget.md R147). -/
def storeEntry (w : Width) (i : Nat) (t : BitVec 8) (v : BitVec w.bits) (s : State) : State :=
  (memWrite w t v s).1.report i (memWrite w t v s).2

/-- The Store step of WRITEALL at entry i (41_multitarget.md R152). -/
def writeallStore (w : Width) (n : BitVec 6) (b : BitVec 16) (v : Bool) (r : RunState) (s : State) : Result :=
  match r.snap.handles[r.i]? with
  | none => .fault .noEnabledStep
  | some t =>
    let ph := if r.i + 1 < n.toNat then .load else .finish
    .next ((storeEntry w r.i t (bitSet w (r.tmp.setWidth w.bits) b.toNat v) s).withRun
      { r with i := r.i + 1, ph := ph })

/-- The steps of WRITEALL by phase (41_multitarget.md R152). -/
def writeallStep (w : Width) (n : BitVec 6) (b : BitVec 16) (v : Bool) (s : State) : Result :=
  onRun s fun r =>
    match r.ph with
    | .check => viewCheckStep w n b r s
    | .load => writeallLoad w r s
    | .store => writeallStore w n b v r s
    | .finish => .next (raiseError (writeallErr s.wfail) s)

end Sys2Proof.Machine
end

