-- ==== Sys2Proof/Machine/Container.lean ====
section
/-! DEFINITION. GET and SET (40_container.md R110, R111). Each is one unit step, in the Check phase
(41_multitarget.md R151). -/

namespace Sys2Proof.Machine

/-- GET (40_container.md R110): `STATUS.BIT <- bitGet(W, c, b)`, ERR = 0, BUSY = 0. -/
def execGet (w : Width) (b : BitVec 16) (s : State) : Result :=
  containerStep w b s fun c => s.finishWith (getStatus (bitGet w c b.toNat) s.status)

/-- SET (40_container.md R111): `COUT <- zext_256(bitSet(W, c, b, v))`, COUTTAG ← wc(W), ERR = 0, BUSY = 0. -/
def execSet (w : Width) (b : BitVec 16) (v : Bool) (s : State) : Result :=
  containerStep w b s fun c =>
    (s.withCout (wcOf w) ((bitSet w c b.toNat v).setWidth 256)).finishWith (endStatus .ok s.status)

end Sys2Proof.Machine
end

