-- ==== Sys2Proof/Machine/View.lean ====
section
/-! DEFINITION. READ, HASDIS and WRITEALL (41_multitarget.md R140, R141, R145), one unit step at a time
(R151, R152). -/

namespace Sys2Proof.Machine

/-- READ (41_multitarget.md R140): Finish writes TRI, ALL and ANY. -/
def execRead (w : Width) (n : BitVec 6) (b : BitVec 16) (s : State) : Result :=
  consensusStep w n b s readStatus

/-- HASDIS (41_multitarget.md R141): Finish writes DIS, ALL and ANY. -/
def execHasdis (w : Width) (n : BitVec 6) (b : BitVec 16) (s : State) : Result :=
  consensusStep w n b s hasdisStatus

/-- WRITEALL (41_multitarget.md R145): each entry loaded, set and stored; Finish writes ERR from WFAIL. -/
def execWriteall (w : Width) (n : BitVec 6) (b : BitVec 16) (v : Bool) (s : State) : Result :=
  writeallStep w n b v s

end Sys2Proof.Machine
end

