-- ==== Sys2Proof/Machine/Dispatch.lean ====
section
/-! DEFINITION. One unit step of the running command, by its instruction (41_multitarget.md R151, R152). -/

namespace Sys2Proof.Machine

def exec (i : Instr) (s : State) : Host.Outcome State Fault Refusal :=
  match i with
  | .get w b => Sys2Proof.Machine.execGet w b s
  | .set w b v => Sys2Proof.Machine.execSet w b v s
  | .read w n b => Sys2Proof.Machine.execRead w n b s
  | .hasdis w n b => Sys2Proof.Machine.execHasdis w n b s
  | .writeall w n b v => Sys2Proof.Machine.execWriteall w n b v s

end Sys2Proof.Machine
end

