-- ==== Sys2Proof/Machine/HostPort.lean ====
section
/-! DEFINITION. What the host does to the block: register accesses by number (10_state.md R31 to R35), slot accesses
(70_reset_and_hazards.md R215), the two hazards (R210, R211), and reset (R200 to R202). -/

namespace Sys2Proof.Machine

/-- The registers of the map of 10_state.md R33; every other number is reserved (R32). -/
inductive RegId where
  | cmd | status | cinTag | coutTag | cin0 | cin1 | cin2 | cin3 | cout0 | cout1 | cout2 | cout3 | wok | wfail
  | tgt (i : Nat)
  | reserved
  deriving DecidableEq, Repr

/-- The register with number `n` (10_state.md R33). -/
def regOf (nmax : Nat) (n : BitVec 8) : RegId :=
  match n.toNat with
  | 0x00 => .cmd
  | 0x01 => .status
  | 0x02 => .cinTag
  | 0x03 => .coutTag
  | 0x04 => .cin0
  | 0x05 => .cin1
  | 0x06 => .cin2
  | 0x07 => .cin3
  | 0x08 => .cout0
  | 0x09 => .cout1
  | 0x0A => .cout2
  | 0x0B => .cout3
  | 0x0C => .wok
  | 0x0D => .wfail
  | 0x0E => .reserved
  | 0x0F => .reserved
  | k + 0x10 => if k < nmax then .tgt k else .reserved

/-- `REG[n]`, zero-extended to 64 bits; a reserved number reads 0 (10_state.md R32). No side effect
(20_memory.md R72), at any time (70_reset_and_hazards.md R211, R215). -/
def readReg (n : BitVec 8) (s : State) : BitVec 64 :=
  match regOf s.cfg.nmax n with
  | .cmd => s.cmd.setWidth 64
  | .status => s.status.setWidth 64
  | .cinTag => s.cinTag.setWidth 64
  | .coutTag => s.coutTag.setWidth 64
  | .cin0 => s.cin0
  | .cin1 => s.cin1
  | .cin2 => s.cin2
  | .cin3 => s.cin3
  | .cout0 => s.cout0
  | .cout1 => s.cout1
  | .cout2 => s.cout2
  | .cout3 => s.cout3
  | .wok => s.wok
  | .wfail => s.wfail
  | .tgt i => (s.tgt.getD i 0#8).setWidth 64
  | .reserved => 0#64

/-- `REG[n] <- v` while not busy: a write of CMD starts a command (10_state.md R35), a write to a read-only or
reserved number is ignored (R32), any other stores its value (20_memory.md R72). -/
def writeReg (n : BitVec 8) (v : BitVec 64) (s : State) : State :=
  match regOf s.cfg.nmax n with
  | .cmd => commandStart (v.setWidth 32) s
  | .cinTag => { s with cinTag := v.setWidth 3 }
  | .cin0 => { s with cin0 := v }
  | .cin1 => { s with cin1 := v }
  | .cin2 => { s with cin2 := v }
  | .cin3 => { s with cin3 := v }
  | .tgt i => { s with tgt := s.tgt.set i (v.setWidth 8) }
  | .status | .coutTag | .cout0 | .cout1 | .cout2 | .cout3 | .wok | .wfail | .reserved => s

/-- Does the running view list slot `t`? The view of a view command, from its start until U = Idle
(41_multitarget.md R130, 70_reset_and_hazards.md R210). -/
def runningViewLists (t : BitVec 8) (s : State) : Bool :=
  match s.unit with
  | .idle => false
  | .run r =>
    match r.snap.decoded with
    | .command (.read _ _ _) => r.snap.handles.contains t
    | .command (.hasdis _ _ _) => r.snap.handles.contains t
    | .command (.writeall _ _ _ _) => r.snap.handles.contains t
    | .command (.get _ _) => false
    | .command (.set _ _ _) => false
    | .illegal _ => false

/-- A host access to slot `t` of capacity `w`: the slot must exist (log 9) and no running view may list it
(70_reset_and_hazards.md R210). -/
def hostSlot (t : BitVec 8) (s : State) (f : Width → State) : Result :=
  match s.cfg.slotCap t.toNat with
  | none => .fault .noSuchSlot
  | some w => if runningViewLists t s then .fault .targetRace else .next (f w)

/-- The last host read gave back `v` (log 6). -/
def State.withHostRead (s : State) (v : BitVec 256) : State := { s with hostRead := v }

/-- One host access (70_reset_and_hazards.md R215). Any register write while BUSY = 1 is a fault (R211; log 8). -/
def hostAccess (a : HostAccess) (s : State) : Result :=
  match a with
  | .readReg n => .next (s.withHostRead ((readReg n s).setWidth 256))
  | .writeReg n v => if statusBusy s.status then .fault .writeWhileBusy else .next (writeReg n v s)
  | .loadSlot t => hostSlot t s fun w => s.withHostRead ((memRead w t s).setWidth 256)
  | .storeSlot t v => hostSlot t s fun w => s.withSlot t (v.setWidth w.bits)
  | .storeSigned t z => hostSlot t s fun w => s.withSlot t (ofSigned w z)

/-- Reset: every register at its reset value and U = Idle (70_reset_and_hazards.md R200), slots and
configuration kept (R201), a running command abandoned (R202). The host's own side stays (log 14). -/
def resetBlock (s : State) : State :=
  { State.launch s.cfg s.slots with
    turns := s.turns, answers := s.answers, draws := s.draws, hostRead := s.hostRead }

end Sys2Proof.Machine
end

