-- ==== Sys2Proof/Machine/Schedule.lean ====
section
/-! DEFINITION. Whose turn it is: the unit's step (41_multitarget.md R151) and the turns of the total order of
20_memory.md R73. -/

namespace Sys2Proof.Machine

/-- The unit's one step: nothing while idle (60_exceptions.md R187), IllegalCommand in the Check step of a word
that does not decode (R175), else the step of the snapshot's instruction. -/
def unitStep (s : State) : Result :=
  match s.unit with
  | .idle => .next s
  | .run r =>
    match r.snap.decoded with
    | .command i => exec i s
    | .illegal _ =>
      match r.ph with
      | .check => .next (raiseError .illegalCommand s)
      | _ => .fault .noEnabledStep

/-- One poll of WAIT (30_encoding.md R94): the host reads STATUS, and while BUSY = 1 it goes on waiting and the
unit takes a step. -/
def waitStep (s : State) : Result :=
  if statusBusy s.status then
    unitStep ((s.withHostRead (s.status.setWidth 256)).withTurns (.wait :: s.turns))
  else .next (s.withHostRead (s.status.setWidth 256))

/-- One turn, the turn itself already taken off the list. -/
def takeTurn (t : Turn) (s : State) : Result :=
  match t with
  | .unit => unitStep s
  | .host a => hostAccess a s
  | .wait => waitStep s
  | .reset => .next (resetBlock s)

/-- The next turn of the total order; with no turn pending the host is silent and the unit moves (log 4). -/
def nextTurn (s : State) : Result :=
  match s.turns with
  | [] => unitStep s
  | t :: rest => takeTurn t (s.withTurns rest)

/-- The command word `c` has just been written to CMD, and the unit moves next. -/
def withCommand (c : BitVec 32) (s : State) : State :=
  (commandStart c s).withTurns (if s.turns.isEmpty then [] else .unit :: s.turns)

end Sys2Proof.Machine
end

