-- ==== Sys2Proof/Machine/Reference.lean ====
section
/-! DEFINITION. The atomic reference function of 41_multitarget.md R154: each command as the ONE step that its rule's
pseudocode gives, in the bit form of 40_container.md R104 and with every entry loaded (R139 allows both). The machine
does not run it; statements compare the machine's unit steps with it. -/

namespace Sys2Proof.Machine

/-- `c` with bit `b` set or cleared: the one generic routine of 40_container.md R104. -/
def bitSetWhole (w : Width) (c : BitVec w.bits) (b : Nat) (v : Bool) : BitVec w.bits :=
  if v then c ||| (1#w.bits <<< b) else c &&& ~~~(1#w.bits <<< b)

/-- The targets' bits `b_0, b_1, …` in view order (41_multitarget.md R134). -/
def viewBits (w : Width) (b : Nat) (handles : List (BitVec 8)) (s : State) : List Bool :=
  handles.map fun t => (memRead w t s).getLsbD b

/-- `DIS = d_1 ∨ … ∨ d_(N−1)` with `d_i = b_i ⊕ b_0` (41_multitarget.md R135, R136). -/
def disOf : List Bool → Bool
  | [] => false
  | b0 :: bs => bs.any fun x => x ^^ b0

/-- `(b_0, ALL, ANY)` over all the targets' bits (41_multitarget.md R137). -/
def accOf (bs : List Bool) : Acc := ⟨bs.headD false, bs.all id, bs.any id⟩

/-- The result of a READ over the targets' bits (41_multitarget.md R138). -/
def triOf (bs : List Bool) : TriState :=
  if disOf bs then .mixed else if bs.headD false then .allTrue else .allFalse

/-- READ's STATUS over the targets' bits (41_multitarget.md R140). -/
def atomicReadStatus (bs : List Bool) (v : BitVec 16) : BitVec 16 :=
  endStatus .ok (reductionStatus (accOf bs) (setField v 5 (triBits (triOf bs))))

/-- HASDIS's STATUS over the targets' bits (41_multitarget.md R141). -/
def atomicHasdisStatus (bs : List Bool) (v : BitVec 16) : BitVec 16 :=
  endStatus .ok (reductionStatus (accOf bs) (setField v 7 (BitVec.ofBool (disOf bs))))

/-- WRITEALL's loop over the entries from `i` on (41_multitarget.md R145): load, set, store, report. -/
def atomicStores (w : Width) (b : Nat) (v : Bool) : Nat → List (BitVec 8) → State → State
  | _, [], s => s
  | i, t :: ts, s => atomicStores w b v (i + 1) ts (storeEntry w i t (bitSetWhole w (memRead w t s) b v) s)

/-- The whole command of snapshot `snap`, from the state its start left (41_multitarget.md R154). -/
def atomicRun (snap : Snapshot) (s : State) : State :=
  match snap.decoded with
  | .illegal _ => raiseError .illegalCommand s
  | .command (.get w b) =>
    match containerCheck w b.toNat snap with
    | some e => raiseError e s
    | none => s.finishWith (getStatus ((containerOperand w snap).getLsbD b.toNat) s.status)
  | .command (.set w b v) =>
    match containerCheck w b.toNat snap with
    | some e => raiseError e s
    | none =>
      (s.withCout (wcOf w) ((bitSetWhole w (containerOperand w snap) b.toNat v).setWidth 256)).finishWith
        (endStatus .ok s.status)
  | .command (.read w n b) =>
    match viewCheck s.cfg w n.toNat b.toNat snap with
    | some e => raiseError e s
    | none => s.finishWith (atomicReadStatus (viewBits w b.toNat snap.handles s) s.status)
  | .command (.hasdis w n b) =>
    match viewCheck s.cfg w n.toNat b.toNat snap with
    | some e => raiseError e s
    | none => s.finishWith (atomicHasdisStatus (viewBits w b.toNat snap.handles s) s.status)
  | .command (.writeall w n b v) =>
    match viewCheck s.cfg w n.toNat b.toNat snap with
    | some e => raiseError e s
    | none =>
      let s' := atomicStores w b.toNat v 0 snap.handles s
      raiseError (writeallErr s'.wfail) s'

/-- A host write of `c` to CMD and the whole command it starts, as one function (41_multitarget.md R150, R154). -/
def atomicCommand (c : BitVec 32) (s : State) : State :=
  atomicRun (snapshot c s) (commandStart c s)

end Sys2Proof.Machine
end

