-- ==== Sys2Proof/Safety.lean ====
section
/-! DEFINITION. What statements are said in terms of: the invariant of the machine, and which turns a correct host
takes (70_reset_and_hazards.md R210, R211, R215). -/

namespace Sys2Proof.Machine

/-- Every listed slot exists and its container fits the slot's width (10_state.md R25). -/
def slotsFit (cfg : Config) (m : SlotMemory) : Prop :=
  ∀ c ∈ m, ∃ w, cfg.slotCap c.1 = some w ∧ c.2.toNat < 2 ^ w.bits

/-- A READ or HASDIS past its Check: the view is legal, nothing is reported, and the accumulators hold the
reduction of the entries loaded so far (41_multitarget.md R151). -/
def consensusInv (w : Width) (n : BitVec 6) (b : BitVec 16) (r : RunState) (s : State) : Prop :=
  viewCheck s.cfg w n.toNat b.toNat r.snap = none ∧ s.wok = 0#64 ∧ s.wfail = 0#64 ∧
  match r.ph with
  | .load => r.i < n.toNat ∧
      (0 < r.i → r.acc = accOf (viewBits w b.toNat (r.snap.handles.take r.i) s) ∧ accDis r.acc = false)
  | .finish => 0 < r.i ∧ r.i ≤ n.toNat ∧
      r.acc = accOf (viewBits w b.toNat (r.snap.handles.take r.i) s) ∧ (r.i = n.toNat ∨ accDis r.acc = true)
  | .check => False
  | .store => False

/-- A WRITEALL past its Check: the view is legal, exactly the entries stored so far are reported, each in one
bitmap (41_multitarget.md R148), and between a load and its store tmp is still the slot's container. -/
def writeallInv (w : Width) (n : BitVec 6) (b : BitVec 16) (r : RunState) (s : State) : Prop :=
  viewCheck s.cfg w n.toNat b.toNat r.snap = none ∧
  s.wok &&& s.wfail = 0#64 ∧ s.wok ||| s.wfail = BitVec.ofNat 64 (2 ^ r.i - 1) ∧
  match r.ph with
  | .load => r.i < n.toNat
  | .store => r.i < n.toNat ∧
      ∃ t, r.snap.handles[r.i]? = some t ∧ r.tmp = (memRead w t s).setWidth 256
  | .finish => r.i = n.toNat
  | .check => False

/-- A running command: the host has left its operands alone, so the snapshot is what a snapshot taken now would
be (41_multitarget.md R150, 70_reset_and_hazards.md R211), STATUS is as command start wrote it (R212), and the phase
is one that R151 and R152 reach. -/
def runInv (r : RunState) (s : State) : Prop :=
  r.snap = snapshot s.cmd s ∧ s.status = startStatus ∧
  ((r.ph = .check ∧ r.i = 0 ∧ s.wok = 0#64 ∧ s.wfail = 0#64) ∨
    (∃ w n b, r.snap.decoded = .command (.read w n b) ∧ consensusInv w n b r s) ∨
    (∃ w n b, r.snap.decoded = .command (.hasdis w n b) ∧ consensusInv w n b r s) ∨
    (∃ w n b v, r.snap.decoded = .command (.writeall w n b v) ∧ writeallInv w n b r s))

/-- The unit at rest: STATUS holds a code R170 names, an error leaves no result field (60_exceptions.md R177), the
results are consistent (41_multitarget.md R137, R138), and WFAIL ≠ 0 iff PartialWriteError (R149). -/
structure IdleInv (s : State) : Prop where
  notBusy : statusBusy s.status = false
  errLegal : (statusErr s.status).toNat ≤ 5
  errAlone : statusErr s.status ≠ 0#3 →
    statusBit s.status = false ∧ statusTri s.status = 0#2 ∧ statusDis s.status = false ∧
    statusAll s.status = false ∧ statusAny s.status = false
  triLegal : statusTri s.status ≠ 3#2
  mixedResult : statusTri s.status = 2#2 ∨ statusDis s.status = true →
    statusAll s.status = false ∧ statusAny s.status = true
  trueResult : statusTri s.status = 1#2 → statusAll s.status = true ∧ statusAny s.status = true
  partialIff : statusErr s.status = 3#3 ↔ s.wfail ≠ 0#64
  reportDisjoint : s.wok &&& s.wfail = 0#64

/-- The unit's part of the invariant. -/
def unitInv (s : State) : Prop :=
  match s.unit with
  | .idle => IdleInv s
  | .run r => runInv r s

/-- The invariant of the machine: it holds after reset and every step keeps it. -/
structure Inv (s : State) : Prop where
  /-- The slot memory has its canonical form (log 1). -/
  slotsCanonical : Memory.wf s.slots
  /-- Every slot holds a container of its own width (10_state.md R25). -/
  slotsFit : slotsFit s.cfg s.slots
  /-- There are NMAX target registers (10_state.md R33). -/
  tgtLength : s.tgt.length = s.cfg.nmax
  /-- STATUS[15:10] reads 0 (10_state.md R42). -/
  statusReserved : statusReserved s.status = 0#6
  /-- COUT and COUTTAG hold a container (10_state.md R44, 40_container.md R111). -/
  coutContainer : ∃ w, s.coutTag = wcOf w ∧ (coutValue s).toNat < 2 ^ w.bits
  /-- The unit is at rest, or runs a command in a phase its rules reach. -/
  unitLegal : unitInv s

/-- The next turn is one a correct host may take: no register write while BUSY = 1 (70_reset_and_hazards.md R211),
and no access to a slot that does not exist or that the running view lists (R210). -/
def turnAllowed (s : State) : Prop :=
  match s.turns with
  | .host (.writeReg _ _) :: _ => statusBusy s.status = false
  | .host (.loadSlot t) :: _ => s.cfg.slotCap t.toNat ≠ none ∧ runningViewLists t s = false
  | .host (.storeSlot t _) :: _ => s.cfg.slotCap t.toNat ≠ none ∧ runningViewLists t s = false
  | .host (.storeSigned t _) :: _ => s.cfg.slotCap t.toNat ≠ none ∧ runningViewLists t s = false
  | .host (.readReg _) :: _ => True
  | .unit :: _ => True
  | .wait :: _ => True
  | .reset :: _ => True
  | [] => True

end Sys2Proof.Machine
end

