-- ==== Sys2Proof/Certificates/Slice0/Obligations.lean ====
section
/-! DEFINITION. The statements for the provers. Each docstring names the rule of spec/ it formalises, or says what is
the model's own. A statement about an instruction gives its next state as the old state with named fields replaced:
every field not named there is unchanged, which is its frame. -/

open Sys2Proof Sys2Proof.Machine

/-! ### Reset, the invariant, and when a run stops -/

/-- 70_reset_and_hazards.md R200: the reset turn puts every register at its reset value and the unit in Idle, and
starts no command; the slots and the configuration stay (R201, R202). -/
def Obligations.ResetTurnSetsEveryRegister : Prop :=
  ∀ (s : State) (rest : List Turn), s.turns = .reset :: rest →
    ∃ t, step s = .next t ∧
      t.cmd = 0x00000000#32 ∧ t.status = 0x0000#16 ∧ t.cinTag = 0b000#3 ∧ t.coutTag = 0b000#3 ∧
      t.cin0 = 0#64 ∧ t.cin1 = 0#64 ∧ t.cin2 = 0#64 ∧ t.cin3 = 0#64 ∧
      t.cout0 = 0#64 ∧ t.cout1 = 0#64 ∧ t.cout2 = 0#64 ∧ t.cout3 = 0#64 ∧
      t.wok = 0#64 ∧ t.wfail = 0#64 ∧ t.tgt = List.replicate s.cfg.nmax 0x00#8 ∧ t.unit = .idle ∧
      t.slots = s.slots ∧ t.cfg = s.cfg ∧ (rest = [] → step t = .next t)

/-- 70_reset_and_hazards.md R200 on the launch state: every register number reads 0 and the unit is idle, for every
configuration and every slot contents; `State.reset` is one such state (its configuration is DESIGN CHOICE, log 2). -/
def Obligations.LaunchStateReadsZeroEverywhere : Prop :=
  ∀ (cfg : Config) (m : SlotMemory) (n : BitVec 8),
    readReg n (State.launch cfg m) = 0#64 ∧ (State.launch cfg m).unit = .idle ∧
    readReg n State.reset = 0#64 ∧ State.reset.unit = .idle

/-- The invariant holds at launch with any legal slot contents (70_reset_and_hazards.md R201), so at State.reset. -/
def Obligations.LaunchStateMeetsInvariant : Prop :=
  (∀ (cfg : Config) (m : SlotMemory), Memory.wf m → slotsFit cfg m → Inv (State.launch cfg m)) ∧ Inv State.reset

/-- Every step keeps the invariant: canonical slots of their own width, NMAX targets, reserved STATUS bits 0, BUSY
exactly while the unit runs, a snapshot that is still what the operands say, legal phases, accumulators that hold the
reduction so far, and bitmaps that report exactly the entries stored so far. -/
def Obligations.EveryStepKeepsInvariant : Prop :=
  ∀ s t : State, Inv s → step s = .next t → Inv t

/-- 10_state.md R46 and 70_reset_and_hazards.md R212: BUSY = 1 exactly while the unit runs; while it does, STATUS reads
0x0001, so ERR and every result field read 0, and no entry is in both bitmaps. -/
def Obligations.BusyExactlyWhileRunning : Prop :=
  ∀ s : State, Inv s →
    (statusBusy s.status = true ↔ s.unit ≠ .idle) ∧
    (s.unit ≠ .idle → readReg 0x01#8 s = 0x0001#64 ∧ readReg 0x0C#8 s &&& readReg 0x0D#8 s = 0#64)

/-- A run stops only at a turn that a correct host does not take (70_reset_and_hazards.md R210, R211, R215): the
unit itself is never blocked (41_multitarget.md R151). -/
def Obligations.OnlyForbiddenTurnsStop : Prop :=
  ∀ s : State, Inv s → turnAllowed s → ∃ t, step s = .next t

/-- 70_reset_and_hazards.md R211: a register write while BUSY = 1 is WriteWhileBusy; a read is allowed.
That the fault covers read-only and reserved numbers too is the model's reading (log 8). -/
def Obligations.RegisterWriteWhileBusyFaults : Prop :=
  ∀ (s : State) (n : BitVec 8) (rest : List Turn), statusBusy s.status = true →
    (∀ v, s.turns = .host (.writeReg n v) :: rest → step s = .fault .writeWhileBusy) ∧
    (s.turns = .host (.readReg n) :: rest →
      step s = .next { s with turns := rest, hostRead := (readReg n s).setWidth 256 })

/-- 70_reset_and_hazards.md R210: a host load or store of a slot that the running view lists is TargetRace. -/
def Obligations.AccessToRunningViewFaults : Prop :=
  ∀ (s : State) (r : RunState) (w : Width) (n : BitVec 6) (b : BitVec 16) (v : Bool) (a : BitVec 8)
    (x : BitVec 256) (z : Int) (rest : List Turn),
    s.unit = .run r →
    (r.snap.decoded = .command (.read w n b) ∨ r.snap.decoded = .command (.hasdis w n b) ∨
      r.snap.decoded = .command (.writeall w n b v)) →
    a ∈ r.snap.handles → a.toNat < s.cfg.nslot →
    (s.turns = .host (.loadSlot a) :: rest ∨ s.turns = .host (.storeSlot a x) :: rest ∨
      s.turns = .host (.storeSigned a z) :: rest) →
    step s = .fault .targetRace

/-- 70_reset_and_hazards.md R215: the host may load or store any other slot. A load changes nothing; a store replaces
the whole container and no other slot. (The model's own: a value wider than the slot loses its high bits, log 7; a host
store always takes effect and draws no answer of the storage oracle, log 16; the signed form of 20_memory.md R69, log 17.) -/
def Obligations.HostSlotAccessCompletes : Prop :=
  ∀ (s : State) (a : BitVec 8) (w : Width) (rest : List Turn),
    s.cfg.slotCap a.toNat = some w → runningViewLists a s = false → Memory.wf s.slots →
    (s.turns = .host (.loadSlot a) :: rest →
      ∃ x, step s = .next { s with turns := rest, hostRead := x } ∧
        ∀ j, x.getLsbD j = (decide (j < w.bits) && (slotLookup s.slots a.toNat).getLsbD j)) ∧
    (∀ x, s.turns = .host (.storeSlot a x) :: rest →
      ∃ m, step s = .next { s with turns := rest, slots := m } ∧
        (∀ j, (slotLookup m a.toNat).getLsbD j = (decide (j < w.bits) && x.getLsbD j)) ∧
        ∀ a', a' ≠ a.toNat → slotLookup m a' = slotLookup s.slots a') ∧
    (∀ z : Int, s.turns = .host (.storeSigned a z) :: rest →
      ∃ m, step s = .next { s with turns := rest, slots := m } ∧
        ((slotLookup m a.toNat).toNat : Int) = z % 2 ^ w.bits ∧
        ∀ a', a' ≠ a.toNat → slotLookup m a' = slotLookup s.slots a')

/-! ### The register file -/

/-- 10_state.md R32: a reserved number reads 0 and ignores writes; a write to a read-only register is ignored. -/
def Obligations.ReservedAndReadOnlyRegisters : Prop :=
  ∀ (s : State) (n : BitVec 8) (v : BitVec 64) (rest : List Turn),
    ((n = 0x0E#8 ∨ n = 0x0F#8 ∨ 0x10 + s.cfg.nmax ≤ n.toNat) → s.turns = .host (.readReg n) :: rest →
      step s = .next { s with turns := rest, hostRead := 0#256 }) ∧
    ((n = 0x01#8 ∨ n = 0x03#8 ∨ (0x08 ≤ n.toNat ∧ n.toNat ≤ 0x0F) ∨ 0x10 + s.cfg.nmax ≤ n.toNat) →
      statusBusy s.status = false → s.turns = .host (.writeReg n v) :: rest →
      step s = .next { s with turns := rest })

/-- The register map of 10_state.md R33, read by number; the read leaves everything but the host's own copy. -/
def Obligations.RegisterMapReads : Prop :=
  ∀ s : State,
    (∀ (n : BitVec 8) (rest : List Turn), s.turns = .host (.readReg n) :: rest →
      step s = .next { s with turns := rest, hostRead := (readReg n s).setWidth 256 }) ∧
    readReg 0x00#8 s = s.cmd.setWidth 64 ∧ readReg 0x01#8 s = s.status.setWidth 64 ∧
    readReg 0x02#8 s = s.cinTag.setWidth 64 ∧ readReg 0x03#8 s = s.coutTag.setWidth 64 ∧
    readReg 0x04#8 s = s.cin0 ∧ readReg 0x05#8 s = s.cin1 ∧ readReg 0x06#8 s = s.cin2 ∧ readReg 0x07#8 s = s.cin3 ∧
    readReg 0x08#8 s = s.cout0 ∧ readReg 0x09#8 s = s.cout1 ∧ readReg 0x0A#8 s = s.cout2 ∧
    readReg 0x0B#8 s = s.cout3 ∧ readReg 0x0C#8 s = s.wok ∧ readReg 0x0D#8 s = s.wfail ∧
    ∀ (n : BitVec 8) (i : Nat) (x : BitVec 8), n.toNat = 0x10 + i → i < s.cfg.nmax → s.tgt[i]? = some x →
      readReg n s = x.setWidth 64

/-- A host write of an operand register while BUSY = 0 stores its value and has no other effect (20_memory.md R72).
(A value wider than the register loses its high bits: log 7.) -/
def Obligations.OperandRegisterWrites : Prop :=
  ∀ (s : State) (n : BitVec 8) (v : BitVec 64) (rest : List Turn),
    statusBusy s.status = false → s.turns = .host (.writeReg n v) :: rest →
    (n = 0x02#8 → step s = .next { s with turns := rest, cinTag := v.setWidth 3 }) ∧
    (n = 0x04#8 → step s = .next { s with turns := rest, cin0 := v }) ∧
    (n = 0x05#8 → step s = .next { s with turns := rest, cin1 := v }) ∧
    (n = 0x06#8 → step s = .next { s with turns := rest, cin2 := v }) ∧
    (n = 0x07#8 → step s = .next { s with turns := rest, cin3 := v }) ∧
    (∀ i, n.toNat = 0x10 + i → i < s.cfg.nmax → s.tgt.length = s.cfg.nmax →
      ∃ l, step s = .next { s with turns := rest, tgt := l } ∧ l.length = s.tgt.length ∧
        l[i]? = some (v.setWidth 8) ∧ ∀ j, j ≠ i → l[j]? = s.tgt[j]?)

/-- 10_state.md R43: what a command start writes, and that it leaves CINTAG, CIN, TGT, COUT and COUTTAG; CMD holds the
written word. The unit then is in Check at entry 0 with the snapshot of 41_multitarget.md R150. -/
def Obligations.CommandStartClearsStatus : Prop :=
  ∀ (s : State) (c : BitVec 32) (rest : List Turn),
    statusBusy s.status = false → s.turns = .host (.writeReg 0x00#8 (c.setWidth 64)) :: rest →
    ∃ r, step s = .next { s with
        turns := rest, cmd := c, status := 0x0001#16, wok := 0#64, wfail := 0#64, unit := .run r } ∧
      r.ph = .check ∧ r.i = 0 ∧ r.snap.decoded = decode s.cfg.nmax c ∧ r.snap.cinTag = s.cinTag ∧
      r.snap.cin = s.cin3 ++ s.cin2 ++ s.cin1 ++ s.cin0 ∧
      r.snap.handles = s.tgt.take (min (c.extractLsb' 8 6).toNat s.cfg.nmax)

/-- A step runs the decoded instruction: while the unit runs a command that decodes to `i`, its turn is `exec i`,
whether no turn is pending, the unit's turn is, or the host waits; and the word that `withFetchWord` places runs in the
very next step. (The model's own: the list of turns, in which a pending wait stays pending and the unit moves in the
same step, log 4; `withFetchWord` standing for the host's write of CMD, log 5.) -/
def Obligations.StepRunsTheDecodedInstruction : Prop :=
  ∀ (s : State) (i : Instr),
    (∀ r rest, s.unit = .run r → r.snap.decoded = .command i →
      (s.turns = [] → step s = exec i s) ∧
      (s.turns = .unit :: rest → step s = exec i { s with turns := rest }) ∧
      (s.turns = .wait :: rest → statusBusy s.status = true →
        step s = exec i { s with hostRead := s.status.setWidth 256 })) ∧
    (∀ c : BitVec 32, decode s.cfg.nmax c = .command i → s.turns = [] →
      step (s.withFetchWord 32 c.toNat) = exec i (s.withFetchWord 32 c.toNat))

/-- 60_exceptions.md R175: a word that does not decode raises IllegalCommand in the Check step and nothing else. -/
def Obligations.UndecodableWordRaisesIllegalCommand : Prop :=
  ∀ (s : State) (r : RunState) (why : Illegal),
    s.unit = .run r → r.ph = .check → r.snap.decoded = .illegal why → s.turns = [] →
    ∃ st, step s = .next { s with status := st, unit := .idle } ∧
      statusErr st = 5#3 ∧ statusBusy st = false ∧ statusBit st = statusBit s.status ∧
      statusTri st = statusTri s.status ∧ statusDis st = statusDis s.status ∧ statusAll st = statusAll s.status ∧
      statusAny st = statusAny s.status ∧ statusReserved st = statusReserved s.status

/-- 60_exceptions.md R187: while U = Idle the unit does nothing. -/
def Obligations.IdleUnitDoesNothing : Prop :=
  ∀ s : State, s.unit = .idle →
    (s.turns = [] → step s = .next s) ∧ ∀ rest, s.turns = .unit :: rest → step s = .next { s with turns := rest }

/-! ### Decoding -/

/-- 30_encoding.md R88: decoding is total; it gives IllegalCommand iff one of the five clauses holds, and otherwise
the operation of OP with width(WC), V, NT and IDX. -/
def Obligations.DecodeIsIllegalExactlyWhen : Prop :=
  ∀ (nmax : Nat) (c : BitVec 32),
    let op := (c.extractLsb' 0 4).toNat
    let wc := (c.extractLsb' 4 3).toNat
    let v := (c.extractLsb' 7 1).toNat
    let nt := c.extractLsb' 8 6
    let rsv := (c.extractLsb' 14 2).toNat
    let idx := c.extractLsb' 16 16
    ((∃ why, decode nmax c = .illegal why) ↔
      (op < 1 ∨ 5 < op) ∨ 6 ≤ wc ∨ rsv ≠ 0 ∨
      ((op = 1 ∧ (v ≠ 0 ∨ nt.toNat ≠ 0)) ∨ (op = 2 ∧ nt.toNat ≠ 0) ∨ (op = 3 ∧ v ≠ 0) ∨ (op = 4 ∧ v ≠ 0)) ∨
      (3 ≤ op ∧ op ≤ 5 ∧ nmax < nt.toNat)) ∧
    ∀ i, decode nmax c = .command i →
      ∃ w, (wcOf w).toNat = wc ∧
        ((op = 1 ∧ i = .get w idx) ∨ (op = 2 ∧ i = .set w idx (decide (v = 1))) ∨ (op = 3 ∧ i = .read w nt idx) ∨
          (op = 4 ∧ i = .hasdis w nt idx) ∨ (op = 5 ∧ i = .writeall w nt idx (decide (v = 1))))

/-- Decode and encode agree: the word of every well-formed command, with every operand at every value, decodes to
that command. -/
def Obligations.DecodeOfEncodeIsTheCommand : Prop :=
  ∀ (nmax : Nat) (i : Instr), i.wellFormed nmax = true → decode nmax (encode i) = .command i

/-- Each legal word has one meaning: a word that decodes is the word of its command, and the command is well formed. -/
def Obligations.EncodeOfDecodeIsTheWord : Prop :=
  ∀ (nmax : Nat) (c : BitVec 32) (i : Instr), decode nmax c = .command i → encode i = c ∧ i.wellFormed nmax = true

/-- Words written out from 30_encoding.md R80 and 95_test_vectors.md decode to their commands, with NMAX = 16. -/
def Obligations.SampleWordsDecode : Prop :=
  decode 16 0x00C80051#32 = .command (.get .w256 200#16) ∧
  decode 16 0x00C800D2#32 = .command (.set .w256 200#16 true) ∧
  decode 16 0x00010233#32 = .command (.read .w64 2#6 1#16) ∧
  decode 16 0x00000334#32 = .command (.hasdis .w64 3#6 0#16) ∧
  decode 16 0x003F0135#32 = .command (.writeall .w64 1#6 63#16 false) ∧
  decode 16 0x00001133#32 = .illegal .tooManyTargets ∧
  decode 16 0x00C84051#32 = .illegal .reservedBits

/-! ### The datapath -/

/-- 40_container.md R102: the mask test equals the bit. -/
def Obligations.BitGetIsTheBit : Prop :=
  ∀ (w : Width) (c : BitVec w.bits) (b : Nat), b < w.bits →
    (bitGet w c b = true ↔ wordOf w c (b / 64) &&& maskOf w b ≠ 0#w.wordBits) ∧ bitGet w c b = c.getLsbD b

/-- 40_container.md R103: the word of bit b is masked, every other word is untouched; R104: exactly bit b is set. -/
def Obligations.BitSetChangesOneBitOfOneWord : Prop :=
  ∀ (w : Width) (c : BitVec w.bits) (b : Nat) (v : Bool), b < w.bits →
    (∀ j, j < w.bits → (bitSet w c b v).getLsbD j = if j = b then v else c.getLsbD j) ∧
    wordOf w (bitSet w c b v) (b / 64) =
      (if v = true then wordOf w c (b / 64) ||| maskOf w b else wordOf w c (b / 64) &&& ~~~(maskOf w b)) ∧
    ∀ k, k < w.nwords → k ≠ b / 64 → wordOf w (bitSet w c b v) k = wordOf w c k

/-- 40_container.md R112, bit independence. -/
def Obligations.SetLeavesOtherBitsReadable : Prop :=
  ∀ (w : Width) (c : BitVec w.bits) (i j : Nat) (v : Bool), i < w.bits → j < w.bits → i ≠ j →
    bitGet w (bitSet w c i v) j = bitGet w c j

/-- 40_container.md R113, round trip. -/
def Obligations.SetThenGetReturnsTheValue : Prop :=
  ∀ (w : Width) (c : BitVec w.bits) (i : Nat), i < w.bits →
    bitGet w (bitSet w c i true) i = true ∧ bitGet w (bitSet w c i false) i = false

/-- 40_container.md R114, idempotence. -/
def Obligations.SetTwiceIsSetOnce : Prop :=
  ∀ (w : Width) (c : BitVec w.bits) (i : Nat) (v : Bool), i < w.bits →
    bitSet w (bitSet w c i v) i v = bitSet w c i v

/-- 20_memory.md R69: signed storage keeps the bit pattern, and `data = s mod 2^W`. -/
def Obligations.SignedStorageKeepsBits : Prop :=
  ∀ (w : Width) (z : Int) (c : BitVec w.bits),
    ((ofSigned w z).toNat : Int) = z % 2 ^ w.bits ∧ ofSigned w (toSigned w c) = c

/-- 20_memory.md R64: storing the same container twice, accepted both times, leaves what storing it once leaves. -/
def Obligations.RepeatedStoreIsOneStore : Prop :=
  ∀ (s : State) (w : Width) (a : BitVec 8) (v : BitVec w.bits), Memory.wf s.slots →
    (memWrite w a v s).2 = true → (memWrite w a v (memWrite w a v s).1).2 = true →
    memRead w a (memWrite w a v s).1 = v ∧ memRead w a (memWrite w a v (memWrite w a v s).1).1 = v ∧
    (memWrite w a v (memWrite w a v s).1).1.slots = (memWrite w a v s).1.slots

/-! ### GET and SET -/

/-- GET (40_container.md R110) on a matching tag and a legal index: BIT is bit b of CIN, ERR = 0, BUSY = 0, the other
STATUS fields and everything else unchanged, the unit idle. -/
def Obligations.GetReturnsTheCinBit : Prop :=
  ∀ (s : State) (r : RunState) (w : Width) (b : BitVec 16),
    s.unit = .run r → r.ph = .check → r.snap.cinTag = wcOf w → b.toNat < w.bits →
    ∃ st, exec (.get w b) s = .next { s with status := st, unit := .idle } ∧
      statusBit st = r.snap.cin.getLsbD b.toNat ∧ statusErr st = 0#3 ∧ statusBusy st = false ∧
      statusTri st = statusTri s.status ∧ statusDis st = statusDis s.status ∧ statusAll st = statusAll s.status ∧
      statusAny st = statusAny s.status ∧ statusReserved st = statusReserved s.status

/-- SET (40_container.md R111) on a matching tag and a legal index: COUT is CIN below W with bit b replaced, zero at
and above W; COUTTAG is the width code; ERR = 0, BUSY = 0; everything else unchanged. -/
def Obligations.SetWritesCoutAndTag : Prop :=
  ∀ (s : State) (r : RunState) (w : Width) (b : BitVec 16) (v : Bool),
    s.unit = .run r → r.ph = .check → r.snap.cinTag = wcOf w → b.toNat < w.bits →
    ∃ st c0 c1 c2 c3, exec (.set w b v) s = .next { s with
        status := st, unit := .idle, cout0 := c0, cout1 := c1, cout2 := c2, cout3 := c3, coutTag := wcOf w } ∧
      (∀ j, j < 256 → (c3 ++ c2 ++ c1 ++ c0).getLsbD j =
        (decide (j < w.bits) && if j = b.toNat then v else r.snap.cin.getLsbD j)) ∧
      statusErr st = 0#3 ∧ statusBusy st = false ∧ statusBit st = statusBit s.status ∧
      statusTri st = statusTri s.status ∧ statusDis st = statusDis s.status ∧ statusAll st = statusAll s.status ∧
      statusAny st = statusAny s.status ∧ statusReserved st = statusReserved s.status

/-- 40_container.md R106: the tag test comes first, then the range test; either one ends GET or SET with its code and
changes nothing else. No width has the codes 6 and 7. -/
def Obligations.ContainerCheckTagBeforeRange : Prop :=
  (∀ w : Width, wcOf w ≠ 6#3 ∧ wcOf w ≠ 7#3) ∧
  ∀ (s : State) (r : RunState) (w : Width) (b : BitVec 16) (v : Bool) (i : Instr),
    s.unit = .run r → r.ph = .check → (i = .get w b ∨ i = .set w b v) →
    (r.snap.cinTag ≠ wcOf w →
      ∃ st, exec i s = .next { s with status := st, unit := .idle } ∧ statusErr st = 2#3 ∧ statusBusy st = false ∧
        statusBit st = statusBit s.status ∧ statusTri st = statusTri s.status ∧ statusDis st = statusDis s.status ∧
        statusAll st = statusAll s.status ∧ statusAny st = statusAny s.status ∧
        statusReserved st = statusReserved s.status) ∧
    (r.snap.cinTag = wcOf w → w.bits ≤ b.toNat →
      ∃ st, exec i s = .next { s with status := st, unit := .idle } ∧ statusErr st = 1#3 ∧ statusBusy st = false ∧
        statusBit st = statusBit s.status ∧ statusTri st = statusTri s.status ∧ statusDis st = statusDis s.status ∧
        statusAll st = statusAll s.status ∧ statusAny st = statusAny s.status ∧
        statusReserved st = statusReserved s.status)

/-- 40_container.md R116: GET and SET with b = W and b = W + 1 raise RangeError when CINTAG = wc(W): from the CMD
write on, in two steps, STATUS is 0x0002 and COUT, COUTTAG and the slots are as they were. -/
def Obligations.IndexAtCapacityIsRejected : Prop :=
  ∀ (s : State) (w : Width) (b : BitVec 16) (v : Bool) (i : Instr),
    (b.toNat = w.bits ∨ b.toNat = w.bits + 1) → s.cinTag = wcOf w → (i = .get w b ∨ i = .set w b v) →
    statusBusy s.status = false → s.turns = [.host (.writeReg 0x00#8 ((encode i).setWidth 64))] →
    ∃ t, Sys2Proof.core.run 2 s = .next t ∧ t.status = 0x0002#16 ∧ t.unit = .idle ∧
      t.cout0 = s.cout0 ∧ t.cout1 = s.cout1 ∧ t.cout2 = s.cout2 ∧ t.cout3 = s.cout3 ∧ t.coutTag = s.coutTag ∧
      t.slots = s.slots

/-- 40_container.md R107: bits of CIN at or above W take no part in GET or SET. -/
def Obligations.HighCinBitsDoNotMatter : Prop :=
  ∀ (s : State) (r : RunState) (w : Width) (b : BitVec 16) (v : Bool) (x : BitVec 256),
    s.unit = .run r → r.ph = .check → x.setWidth w.bits = r.snap.cin.setWidth w.bits →
    exec (.get w b) { s with unit := .run { r with snap := { r.snap with cin := x } } } = exec (.get w b) s ∧
    exec (.set w b v) { s with unit := .run { r with snap := { r.snap with cin := x } } } = exec (.set w b v) s

/-! ### READ, HASDIS and WRITEALL, one unit step at a time -/

/-- 41_multitarget.md R131 to R133: the checks of a view command in their order, each ending the command with its code
and nothing else changed; a view that passes goes on to Load at entry 0. -/
def Obligations.ViewChecksInOrder : Prop :=
  ∀ (s : State) (r : RunState) (w : Width) (n : BitVec 6) (b : BitVec 16) (v : Bool) (i : Instr),
    s.unit = .run r → r.ph = .check → (i = .read w n b ∨ i = .hasdis w n b ∨ i = .writeall w n b v) →
    let ends := fun code : BitVec 3 =>
      ∃ st, exec i s = .next { s with status := st, unit := .idle } ∧ statusErr st = code ∧ statusBusy st = false ∧
        statusBit st = statusBit s.status ∧ statusTri st = statusTri s.status ∧ statusDis st = statusDis s.status ∧
        statusAll st = statusAll s.status ∧ statusAny st = statusAny s.status ∧
        statusReserved st = statusReserved s.status
    if ∃ a ∈ r.snap.handles, s.cfg.nslot ≤ a.toNat then ends 5#3
    else if n = 0#6 then ends 4#3
    else if ∃ a ∈ r.snap.handles, s.cfg.slotCap a.toNat ≠ some w then ends 2#3
    else if w.bits ≤ b.toNat then ends 1#3
    else exec i s = .next { s with unit := .run { r with ph := .load, i := 0 } }

/-- READ and HASDIS, Load at entry i (41_multitarget.md R151): the accumulators take the slot's bit; the next phase is
Finish after the last entry or at a disagreement, else Load. Nothing else changes. -/
def Obligations.ConsensusLoadAccumulates : Prop :=
  ∀ (s : State) (r : RunState) (w : Width) (n : BitVec 6) (b : BitVec 16) (a : BitVec 8) (i : Instr),
    s.unit = .run r → r.ph = .load → r.snap.handles[r.i]? = some a → b.toNat < w.bits →
    (i = .read w n b ∨ i = .hasdis w n b) →
    let x := (slotLookup s.slots a.toNat).getLsbD b.toNat
    let acc : Acc := if r.i = 0 then ⟨x, x, x⟩ else ⟨r.acc.b0, r.acc.all && x, r.acc.any || x⟩
    let ph : Phase := if r.i + 1 = n.toNat ∨ acc.all ≠ acc.any then .finish else .load
    exec i s = .next { s with unit := .run { r with i := r.i + 1, acc := acc, ph := ph } }

/-- READ, Finish (41_multitarget.md R140, R151): TRI, ALL and ANY from the accumulators, ERR = 0, BUSY = 0, BIT and DIS
and everything else unchanged. -/
def Obligations.ReadFinishWritesTriAllAny : Prop :=
  ∀ (s : State) (r : RunState) (w : Width) (n : BitVec 6) (b : BitVec 16),
    s.unit = .run r → r.ph = .finish →
    ∃ st, exec (.read w n b) s = .next { s with status := st, unit := .idle } ∧
      statusTri st = (if r.acc.all ≠ r.acc.any then 0b10#2 else if r.acc.b0 = true then 0b01#2 else 0b00#2) ∧
      statusAll st = r.acc.all ∧ statusAny st = r.acc.any ∧ statusErr st = 0#3 ∧ statusBusy st = false ∧
      statusBit st = statusBit s.status ∧ statusDis st = statusDis s.status ∧
      statusReserved st = statusReserved s.status

/-- HASDIS, Finish (41_multitarget.md R141, R151): DIS, ALL and ANY from the accumulators, ERR = 0, BUSY = 0, BIT and
TRI and everything else unchanged. -/
def Obligations.HasdisFinishWritesDisAllAny : Prop :=
  ∀ (s : State) (r : RunState) (w : Width) (n : BitVec 6) (b : BitVec 16),
    s.unit = .run r → r.ph = .finish →
    ∃ st, exec (.hasdis w n b) s = .next { s with status := st, unit := .idle } ∧
      statusDis st = decide (r.acc.all ≠ r.acc.any) ∧
      statusAll st = r.acc.all ∧ statusAny st = r.acc.any ∧ statusErr st = 0#3 ∧ statusBusy st = false ∧
      statusBit st = statusBit s.status ∧ statusTri st = statusTri s.status ∧
      statusReserved st = statusReserved s.status

/-- WRITEALL, Load at entry i (41_multitarget.md R152): tmp becomes the slot's container; nothing else changes. -/
def Obligations.WriteallLoadFetchesTheContainer : Prop :=
  ∀ (s : State) (r : RunState) (w : Width) (n : BitVec 6) (b : BitVec 16) (v : Bool) (a : BitVec 8),
    s.unit = .run r → r.ph = .load → r.snap.handles[r.i]? = some a →
    ∃ x, exec (.writeall w n b v) s = .next { s with unit := .run { r with tmp := x, ph := .store } } ∧
      ∀ j, x.getLsbD j = (decide (j < w.bits) && (slotLookup s.slots a.toNat).getLsbD j)

/-- WRITEALL, Store at entry i (41_multitarget.md R152; 20_memory.md R63): one answer is drawn. Accepted, slot t_i holds
tmp with bit b replaced and WOK[i] is set; rejected, no slot changes and WFAIL[i] is set. Either way every other slot
is as before, the command goes on, and nothing else changes. Holds for either answer of the free value (log 3). -/
def Obligations.WriteallStoreCommitsOrReports : Prop :=
  ∀ (s : State) (r : RunState) (w : Width) (n : BitVec 6) (b : BitVec 16) (v : Bool) (a : BitVec 8),
    s.unit = .run r → r.ph = .store → r.snap.handles[r.i]? = some a → b.toNat < w.bits → Memory.wf s.slots →
    ∃ m ok fail, exec (.writeall w n b v) s = .next { s with
        slots := m, wok := ok, wfail := fail, answers := s.answers.tail, draws := s.draws + 1,
        unit := .run { r with i := r.i + 1, ph := if r.i + 1 < n.toNat then .load else .finish } } ∧
      (∀ a', a' ≠ a.toNat → slotLookup m a' = slotLookup s.slots a') ∧
      if storeAnswer a s = true then
        (∀ j, (slotLookup m a.toNat).getLsbD j =
          (decide (j < w.bits) && if j = b.toNat then v else r.tmp.getLsbD j)) ∧
        ok = s.wok ||| 1#64 <<< r.i ∧ fail = s.wfail
      else m = s.slots ∧ ok = s.wok ∧ fail = s.wfail ||| 1#64 <<< r.i

/-- WRITEALL, Finish (41_multitarget.md R149, R152): ERR = 0 iff WFAIL = 0, else PartialWriteError; BUSY = 0; nothing
else changes. -/
def Obligations.WriteallFinishReportsPartialWrite : Prop :=
  ∀ (s : State) (r : RunState) (w : Width) (n : BitVec 6) (b : BitVec 16) (v : Bool),
    s.unit = .run r → r.ph = .finish →
    ∃ st, exec (.writeall w n b v) s = .next { s with status := st, unit := .idle } ∧
      statusErr st = (if s.wfail = 0#64 then 0#3 else 3#3) ∧ statusBusy st = false ∧
      statusBit st = statusBit s.status ∧ statusTri st = statusTri s.status ∧ statusDis st = statusDis s.status ∧
      statusAll st = statusAll s.status ∧ statusAny st = statusAny s.status ∧
      statusReserved st = statusReserved s.status

/-- What no unit step changes: the configuration and the registers the unit never writes (10_state.md R33), the host's
own side; COUT and COUTTAG but for SET; slots, WOK, WFAIL and the oracle but for WRITEALL (41_multitarget.md R155). -/
def Obligations.UnitStepFrame : Prop :=
  ∀ (i : Instr) (s t : State), exec i s = .next t →
    t.cfg = s.cfg ∧ t.cmd = s.cmd ∧ t.cinTag = s.cinTag ∧ t.cin0 = s.cin0 ∧ t.cin1 = s.cin1 ∧ t.cin2 = s.cin2 ∧
    t.cin3 = s.cin3 ∧ t.tgt = s.tgt ∧ t.turns = s.turns ∧ t.hostRead = s.hostRead ∧
    ((∀ w b v, i ≠ .set w b v) →
      t.cout0 = s.cout0 ∧ t.cout1 = s.cout1 ∧ t.cout2 = s.cout2 ∧ t.cout3 = s.cout3 ∧ t.coutTag = s.coutTag) ∧
    ((∀ w n b v, i ≠ .writeall w n b v) →
      t.slots = s.slots ∧ t.wok = s.wok ∧ t.wfail = s.wfail ∧ t.answers = s.answers ∧ t.draws = s.draws)

/-- 41_multitarget.md R155: a unit step changes no slot that the running command does not list. -/
def Obligations.UnlistedSlotsUntouched : Prop :=
  ∀ (i : Instr) (s t : State) (r : RunState) (a : BitVec 8), s.unit = .run r → exec i s = .next t →
    a ∉ r.snap.handles → slotLookup t.slots a.toNat = slotLookup s.slots a.toNat

/-! ### Whole commands -/

/-- 41_multitarget.md R135 to R137: the AND, OR and XOR forms agree, and the unit's accumulators compute them. -/
def Obligations.ReductionFormsAgree : Prop :=
  ∀ (b0 : Bool) (bs : List Bool),
    disOf (b0 :: bs) = ((b0 :: bs).any id && !(b0 :: bs).all id) ∧
    (!disOf (b0 :: bs)) = bs.all (fun x => !(x ^^ b0)) ∧
    (disOf (b0 :: bs) = false → (b0 :: bs).all id = b0 ∧ (b0 :: bs).any id = b0) ∧
    (disOf (b0 :: bs) = true → (b0 :: bs).all id = false ∧ (b0 :: bs).any id = true) ∧
    ∀ acc : Acc, bs.foldl (fun a x => accStep 1 a x) (accStep 0 acc b0) = accOf (b0 :: bs) ∧
      accDis (accOf (b0 :: bs)) = disOf (b0 :: bs)

/-- 41_multitarget.md R154: with the host silent, the unit steps of any command end in the state of the atomic
reference function: the step-by-step machine with its word datapath and short-circuit, against each rule's pseudocode
in the bit form with every entry loaded. -/
def Obligations.UnitStepsEqualAtomicCommand : Prop :=
  ∀ (s : State) (c : BitVec 32), Inv s → s.unit = .idle → s.turns = [] →
    Sys2Proof.core.run (2 * s.cfg.nmax + 2) (commandStart c s) = .next (atomicCommand c s)

/-- 41_multitarget.md R153: whatever point a command has reached, it ends within 2·NMAX + 2 unit steps. -/
def Obligations.EveryCommandEndsInBoundedSteps : Prop :=
  ∀ s : State, Inv s → s.turns = [] →
    ∃ t, Sys2Proof.core.run (2 * s.cfg.nmax + 2) s = .next t ∧ t.unit = .idle

/-- WAIT ends (30_encoding.md R94, 41_multitarget.md R153): within 2·NMAX + 3 steps the wait has been taken, the unit
is idle, and the host has read the final STATUS. (The count of machine steps is the model's own: the unit takes one
step after each poll of WAIT, log 4.) -/
def Obligations.WaitEndsWithTheFinalStatus : Prop :=
  ∀ (s : State) (rest : List Turn), Inv s → s.turns = .wait :: rest →
    ∃ k t, k ≤ 2 * s.cfg.nmax + 3 ∧ Sys2Proof.core.run k s = .next t ∧ t.unit = .idle ∧ t.turns = rest ∧
      t.hostRead = t.status.setWidth 256

/-- 41_multitarget.md R142: for one view and one slot contents, both commands end, and READ gives mixed iff HASDIS
gives DIS = 1. -/
def Obligations.ReadMixedIffHasdis : Prop :=
  ∀ (s : State) (w : Width) (n : BitVec 6) (b : BitVec 16), Inv s → s.unit = .idle → s.turns = [] →
    ∃ t u, Sys2Proof.core.run (2 * s.cfg.nmax + 2) (commandStart (encode (.read w n b)) s) = .next t ∧
      Sys2Proof.core.run (2 * s.cfg.nmax + 2) (commandStart (encode (.hasdis w n b)) s) = .next u ∧
      t.unit = .idle ∧ u.unit = .idle ∧ (statusTri t.status = 0b10#2 ↔ statusDis u.status = true)

/-- 41_multitarget.md R143: with N = 1 (a legal view of the slot `a`), HASDIS gives DIS = 0 and READ gives TRI = b_0,
never mixed. -/
def Obligations.SingleTargetNeverMixed : Prop :=
  ∀ (s : State) (w : Width) (b : BitVec 16) (a : BitVec 8), Inv s → s.unit = .idle → s.turns = [] →
    s.tgt[0]? = some a → s.cfg.slotCap a.toNat = some w → b.toNat < w.bits →
    ∃ t u, Sys2Proof.core.run (2 * s.cfg.nmax + 2) (commandStart (encode (.read w 1#6 b)) s) = .next t ∧
      Sys2Proof.core.run (2 * s.cfg.nmax + 2) (commandStart (encode (.hasdis w 1#6 b)) s) = .next u ∧
      t.unit = .idle ∧ u.unit = .idle ∧ statusErr t.status = 0#3 ∧ statusErr u.status = 0#3 ∧
      statusTri t.status = (if (slotLookup s.slots a.toNat).getLsbD b.toNat = true then 0b01#2 else 0b00#2) ∧
      statusDis u.status = false

/-- WRITEALL from start to end over a legal view (41_multitarget.md R145 to R149, R156), for every answer of the
storage oracle and with repeated handles allowed: every entry is reported in exactly one bitmap; an accepted entry's
slot ends with bit b = v; no slot changes in any other bit; a slot none of whose entries was accepted (an unlisted
slot among them) is unchanged; ERR says whether an entry failed. -/
def Obligations.WriteallReportsAndPreserves : Prop :=
  ∀ (s : State) (w : Width) (n : BitVec 6) (b : BitVec 16) (v : Bool), Inv s → s.unit = .idle → s.turns = [] →
    0 < n.toNat → n.toNat ≤ s.cfg.nmax →
    (∀ i, i < n.toNat → ∃ a, s.tgt[i]? = some a ∧ s.cfg.slotCap a.toNat = some w) → b.toNat < w.bits →
    ∃ t, Sys2Proof.core.run (2 * s.cfg.nmax + 2) (commandStart (encode (.writeall w n b v)) s) = .next t ∧
      t.unit = .idle ∧ t.wok ||| t.wfail = BitVec.ofNat 64 (2 ^ n.toNat - 1) ∧ t.wok &&& t.wfail = 0#64 ∧
      statusErr t.status = (if t.wfail = 0#64 then 0#3 else 3#3) ∧ statusBusy t.status = false ∧
      (∀ i a, i < n.toNat → s.tgt[i]? = some a → t.wok.getLsbD i = true →
        (slotLookup t.slots a.toNat).getLsbD b.toNat = v) ∧
      (∀ a j, j ≠ b.toNat → (slotLookup t.slots a).getLsbD j = (slotLookup s.slots a).getLsbD j) ∧
      (∀ a : Nat, (∀ i x, i < n.toNat → s.tgt[i]? = some x → x.toNat = a → t.wfail.getLsbD i = true) →
        slotLookup t.slots a = slotLookup s.slots a)

/-- 60_exceptions.md R177: a command that ends with any code but OK and PartialWriteError leaves only that code in
STATUS, WOK = WFAIL = 0, COUT, COUTTAG and every slot as they were, and has asked for no store. -/
def Obligations.ErrorsHaveNoPartialEffect : Prop :=
  ∀ (s : State) (c : BitVec 32), Inv s → s.unit = .idle → s.turns = [] →
    ∃ t, Sys2Proof.core.run (2 * s.cfg.nmax + 2) (commandStart c s) = .next t ∧ t.unit = .idle ∧
      (statusErr t.status ≠ 0#3 → statusErr t.status ≠ 3#3 →
        t.status = (statusErr t.status).setWidth 16 <<< 1 ∧ t.wok = 0#64 ∧ t.wfail = 0#64 ∧
        t.cout0 = s.cout0 ∧ t.cout1 = s.cout1 ∧ t.cout2 = s.cout2 ∧ t.cout3 = s.cout3 ∧ t.coutTag = s.coutTag ∧
        t.slots = s.slots ∧ t.draws = s.draws)
end

