-- ==== Sys2Proof/Laws/Datapath.lean ====
section
/-! SUPPORT. The datapath bit by bit: each function of 40_container.md R100 to R103 once, as what it does to a bit. -/

namespace Sys2Proof.Machine

/-- A legal index falls inside its word (40_container.md R101). -/
theorem index_mod_lt_wordBits {w : Width} {b : Nat} (h : b < w.bits) : b % 64 < w.wordBits := by
  cases w <;> simp only [Width.bits, Width.wordBits] at * <;> omega

/-- The word of a legal index lies inside the container. -/
theorem word_end_le_bits {w : Width} {b : Nat} (h : b < w.bits) : 64 * (b / 64) + w.wordBits ≤ w.bits := by
  cases w <;> simp only [Width.bits, Width.wordBits] at * <;> omega

theorem wordBits_le (w : Width) : w.wordBits ≤ 64 := by cases w <;> decide

theorem bits_le (w : Width) : w.bits ≤ 256 := by cases w <;> decide

theorem getLsbD_wordOf (w : Width) (c : BitVec w.bits) (k j : Nat) :
    (wordOf w c k).getLsbD j = (decide (j < w.wordBits) && c.getLsbD (64 * k + j)) := by
  simp [wordOf, BitVec.getLsbD_extractLsb']

/-- A one shifted into place is one bit. -/
theorem getLsbD_one_shiftLeft (n b j : Nat) : (1#n <<< b).getLsbD j = decide (j < n ∧ j = b) := by
  simp only [BitVec.getLsbD_shiftLeft, BitVec.getLsbD_one]
  rw [Bool.eq_iff_iff]
  simp only [Bool.and_eq_true, Bool.not_eq_true', decide_eq_true_eq, decide_eq_false_iff_not]
  omega

/-- Exactly bit `b mod 64` of the mask is 1 (40_container.md R101). -/
theorem getLsbD_maskOf (w : Width) (b j : Nat) :
    (maskOf w b).getLsbD j = decide (j < w.wordBits ∧ j = b % 64) :=
  getLsbD_one_shiftLeft _ _ _

/-- The mask test is the bit itself (40_container.md R102). -/
theorem bitGet_eq_getLsbD {w : Width} {b : Nat} (c : BitVec w.bits) (h : b < w.bits) :
    bitGet w c b = c.getLsbD b := by
  have hm := index_mod_lt_wordBits h
  have hb : 64 * (b / 64) + b % 64 = b := Nat.div_add_mod b 64
  have hbit : (wordOf w c (b / 64) &&& maskOf w b).getLsbD (b % 64) = c.getLsbD b := by
    simp only [BitVec.getLsbD_and, getLsbD_wordOf, getLsbD_maskOf, hm, hb, and_self, decide_true, Bool.true_and,
      Bool.and_true]
  cases hc : c.getLsbD b with
  | true =>
    rw [hc] at hbit
    simp only [bitGet, bne_iff_ne, ne_eq]
    intro h0
    rw [h0, BitVec.getLsbD_zero] at hbit
    exact Bool.noConfusion hbit
  | false =>
    have : wordOf w c (b / 64) &&& maskOf w b = 0#w.wordBits := by
      refine BitVec.eq_of_getLsbD_eq fun j hj => ?_
      by_cases hjb : j = b % 64
      · subst hjb
        rw [hbit, hc, BitVec.getLsbD_zero]
      · simp only [BitVec.getLsbD_and, getLsbD_maskOf, hjb, and_false, decide_false, Bool.and_false,
          BitVec.getLsbD_zero]
    simp [bitGet, this]

theorem getLsbD_replaceWord {w : Width} (c : BitVec w.bits) (k : Nat) (x : BitVec w.wordBits) {j : Nat}
    (hj : j < w.bits) :
    (replaceWord w c k x).getLsbD j =
      if 64 * k ≤ j ∧ j < 64 * k + w.wordBits then x.getLsbD (j - 64 * k) else c.getLsbD j := by
  simp only [replaceWord, BitVec.getLsbD_or, BitVec.getLsbD_and, BitVec.getLsbD_not, BitVec.getLsbD_shiftLeft,
    BitVec.getLsbD_setWidth, BitVec.getLsbD_allOnes, hj, decide_true, Bool.true_and]
  have hjk : j - 64 * k < w.bits := by omega
  by_cases h1 : 64 * k ≤ j
  · have h1' : ¬ j < 64 * k := by omega
    by_cases h2 : j < 64 * k + w.wordBits
    · have : j - 64 * k < w.wordBits := by omega
      simp [h1, h1', h2, hjk, this]
    · have : ¬ j - 64 * k < w.wordBits := by omega
      have hx : x.getLsbD (j - 64 * k) = false := BitVec.getLsbD_of_ge _ _ (by omega)
      simp [h1', h2, this, hx]
  · have h1' : j < 64 * k := by omega
    simp [h1, h1']

/-- What a SET of a legal bit does to each bit of the container (40_container.md R104). -/
theorem getLsbD_bitSet {w : Width} {b j : Nat} (c : BitVec w.bits) (v : Bool) (hb : b < w.bits) (hj : j < w.bits) :
    (bitSet w c b v).getLsbD j = if j = b then v else c.getLsbD j := by
  have hm := index_mod_lt_wordBits hb
  have hd : 64 * (b / 64) + b % 64 = b := Nat.div_add_mod b 64
  simp only [bitSet]
  rw [getLsbD_replaceWord c _ _ hj]
  split
  · rename_i hin
    have hjw : j - 64 * (b / 64) < w.wordBits := by omega
    have hjj : 64 * (b / 64) + (j - 64 * (b / 64)) = j := by omega
    have hiff : (j - 64 * (b / 64) = b % 64) ↔ j = b := by omega
    by_cases hjb : j = b
    · rw [hiff.mpr hjb, if_pos hjb]
      cases v <;>
        simp only [Bool.false_eq_true, if_false, if_true, BitVec.getLsbD_or, BitVec.getLsbD_and, BitVec.getLsbD_not,
          getLsbD_maskOf, hm, and_self, decide_true, Bool.or_true, Bool.not_true, Bool.and_false]
    · have hne : ¬ (j - 64 * (b / 64) = b % 64) := fun h => hjb (hiff.mp h)
      cases v <;>
        simp only [Bool.false_eq_true, if_false, if_true, BitVec.getLsbD_or, BitVec.getLsbD_and, BitVec.getLsbD_not,
          getLsbD_maskOf, getLsbD_wordOf, hjw, hjj, hne, hjb, and_false, decide_false, decide_true, Bool.or_false,
          Bool.not_false, Bool.and_true, Bool.true_and]
  · rename_i hout
    have : j ≠ b := by omega
    simp [this]

/-- A container fits its width: no bit of it stands at or above W. -/
theorem getLsbD_bits_ge {w : Width} (c : BitVec w.bits) {j : Nat} (h : w.bits ≤ j) : c.getLsbD j = false :=
  BitVec.getLsbD_of_ge _ _ h

theorem getLsbD_bitSetWhole {w : Width} {b j : Nat} (c : BitVec w.bits) (v : Bool) (hj : j < w.bits) :
    (bitSetWhole w c b v).getLsbD j = if j = b then v else c.getLsbD j := by
  by_cases hjb : j = b
  · subst hjb
    cases v <;>
      simp only [bitSetWhole, Bool.false_eq_true, if_false, if_true, BitVec.getLsbD_or, BitVec.getLsbD_and,
        BitVec.getLsbD_not, getLsbD_one_shiftLeft, hj, and_self, decide_true, Bool.or_true, Bool.not_true, Bool.and_false]
  · cases v <;>
      simp only [bitSetWhole, Bool.false_eq_true, if_false, if_true, BitVec.getLsbD_or, BitVec.getLsbD_and,
        BitVec.getLsbD_not, getLsbD_one_shiftLeft, hj, hjb, and_false, decide_false, decide_true, Bool.or_false,
        Bool.not_false, Bool.and_true]

/-- The word form of R103 and the bit form of R104 are one function on legal indices. -/
theorem bitSet_eq_whole {w : Width} {b : Nat} (c : BitVec w.bits) (v : Bool) (h : b < w.bits) :
    bitSet w c b v = bitSetWhole w c b v := by
  refine BitVec.eq_of_getLsbD_eq fun j hj => ?_
  rw [getLsbD_bitSet c v h hj, getLsbD_bitSetWhole c v hj]

/-- Zero-extending a container to 256 bits and cutting it back gives the container. -/
@[simp] theorem setWidth_setWidth_bits (w : Width) (c : BitVec w.bits) :
    (c.setWidth 256).setWidth w.bits = c := by
  have := bits_le w
  rw [BitVec.setWidth_setWidth_of_le _ this, BitVec.setWidth_eq]

end Sys2Proof.Machine
end

