-- ==== Sys2Proof/Laws/Decode.lean ====
section
/-! SUPPORT. The fields of an encoded word, the width codes, and the entry count of a decoded view command. -/

namespace Sys2Proof

/-- Every field of an assembled word is the field put in, and RSV is 0 (30_encoding.md R80). -/
theorem fields_of_encodeFields (op : BitVec 4) (wc : BitVec 3) (v : BitVec 1) (nt : BitVec 6) (idx : BitVec 16) :
    opField (encodeFields op wc v nt idx) = op ∧ wcField (encodeFields op wc v nt idx) = wc ∧
    vField (encodeFields op wc v nt idx) = v ∧ ntField (encodeFields op wc v nt idx) = nt ∧
    rsvField (encodeFields op wc v nt idx) = 0#2 ∧ idxField (encodeFields op wc v nt idx) = idx := by
  refine ⟨?_, ?_, ?_, ?_, ?_, ?_⟩ <;>
  · refine BitVec.eq_of_getLsbD_eq fun j hj => ?_
    simp only [opField, wcField, vField, ntField, rsvField, idxField, encodeFields, BitVec.getLsbD_extractLsb',
      BitVec.getLsbD_append]
    interval_cases j <;> simp

/-- The width code of a width names that width (30_encoding.md R81). -/
@[simp] theorem widthOf_wcOf (w : Width) : widthOf (wcOf w) = some w := by cases w <;> rfl

/-- The codes 6 and 7, and no others, name no width (30_encoding.md R81). -/
theorem widthOf_eq_none {x : BitVec 3} : widthOf x = none ↔ 6 ≤ x.toNat := by revert x; decide

/-- A code names a width iff it is that width's code (30_encoding.md R81). -/
theorem widthOf_eq_some {x : BitVec 3} {w : Width} : widthOf x = some w ↔ wcOf w = x := by
  cases w <;> revert x <;> decide

/-- A legal READ's entry count is its NT field and at most NMAX (30_encoding.md R84). -/
theorem decode_read {nmax : Nat} {c : BitVec 32} {w : Width} {n : BitVec 6} {b : BitVec 16}
    (h : decode nmax c = .command (.read w n b)) : ntField c = n ∧ n.toNat ≤ nmax := by
  unfold decode at h
  repeat' split at h
  all_goals simp at h
  obtain ⟨rfl, rfl, rfl⟩ := h
  exact ⟨rfl, by omega⟩

/-- The same of HASDIS (30_encoding.md R84). -/
theorem decode_hasdis {nmax : Nat} {c : BitVec 32} {w : Width} {n : BitVec 6} {b : BitVec 16}
    (h : decode nmax c = .command (.hasdis w n b)) : ntField c = n ∧ n.toNat ≤ nmax := by
  unfold decode at h
  repeat' split at h
  all_goals simp at h
  obtain ⟨rfl, rfl, rfl⟩ := h
  exact ⟨rfl, by omega⟩

/-- The same of WRITEALL (30_encoding.md R84). -/
theorem decode_writeall {nmax : Nat} {c : BitVec 32} {w : Width} {n : BitVec 6} {b : BitVec 16} {v : Bool}
    (h : decode nmax c = .command (.writeall w n b v)) : ntField c = n ∧ n.toNat ≤ nmax := by
  unfold decode at h
  repeat' split at h
  all_goals simp at h
  obtain ⟨rfl, rfl, rfl, rfl⟩ := h
  exact ⟨rfl, by omega⟩

end Sys2Proof
end

