-- ==== Sys2Proof/Laws/State.lean ====
section
/-! SUPPORT. What each named update of the state leaves in each field: one lemma per field per update. -/

namespace Sys2Proof.Machine

@[simp] theorem withCout_cfg (s : State) (tag : BitVec 3) (v : BitVec 256) : (s.withCout tag v).cfg = s.cfg := rfl
@[simp] theorem withCout_cmd (s : State) (tag : BitVec 3) (v : BitVec 256) : (s.withCout tag v).cmd = s.cmd := rfl
@[simp] theorem withCout_status (s : State) (tag : BitVec 3) (v : BitVec 256) : (s.withCout tag v).status = s.status := rfl
@[simp] theorem withCout_cinTag (s : State) (tag : BitVec 3) (v : BitVec 256) : (s.withCout tag v).cinTag = s.cinTag := rfl
@[simp] theorem withCout_coutTag (s : State) (tag : BitVec 3) (v : BitVec 256) : (s.withCout tag v).coutTag = tag := rfl
@[simp] theorem withCout_cin0 (s : State) (tag : BitVec 3) (v : BitVec 256) : (s.withCout tag v).cin0 = s.cin0 := rfl
@[simp] theorem withCout_cin1 (s : State) (tag : BitVec 3) (v : BitVec 256) : (s.withCout tag v).cin1 = s.cin1 := rfl
@[simp] theorem withCout_cin2 (s : State) (tag : BitVec 3) (v : BitVec 256) : (s.withCout tag v).cin2 = s.cin2 := rfl
@[simp] theorem withCout_cin3 (s : State) (tag : BitVec 3) (v : BitVec 256) : (s.withCout tag v).cin3 = s.cin3 := rfl
@[simp] theorem withCout_cout0 (s : State) (tag : BitVec 3) (v : BitVec 256) : (s.withCout tag v).cout0 = v.extractLsb' 0 64 := rfl
@[simp] theorem withCout_cout1 (s : State) (tag : BitVec 3) (v : BitVec 256) : (s.withCout tag v).cout1 = v.extractLsb' 64 64 := rfl
@[simp] theorem withCout_cout2 (s : State) (tag : BitVec 3) (v : BitVec 256) : (s.withCout tag v).cout2 = v.extractLsb' 128 64 := rfl
@[simp] theorem withCout_cout3 (s : State) (tag : BitVec 3) (v : BitVec 256) : (s.withCout tag v).cout3 = v.extractLsb' 192 64 := rfl
@[simp] theorem withCout_wok (s : State) (tag : BitVec 3) (v : BitVec 256) : (s.withCout tag v).wok = s.wok := rfl
@[simp] theorem withCout_wfail (s : State) (tag : BitVec 3) (v : BitVec 256) : (s.withCout tag v).wfail = s.wfail := rfl
@[simp] theorem withCout_tgt (s : State) (tag : BitVec 3) (v : BitVec 256) : (s.withCout tag v).tgt = s.tgt := rfl
@[simp] theorem withCout_unit (s : State) (tag : BitVec 3) (v : BitVec 256) : (s.withCout tag v).unit = s.unit := rfl
@[simp] theorem withCout_slots (s : State) (tag : BitVec 3) (v : BitVec 256) : (s.withCout tag v).slots = s.slots := rfl
@[simp] theorem withCout_turns (s : State) (tag : BitVec 3) (v : BitVec 256) : (s.withCout tag v).turns = s.turns := rfl
@[simp] theorem withCout_answers (s : State) (tag : BitVec 3) (v : BitVec 256) : (s.withCout tag v).answers = s.answers := rfl
@[simp] theorem withCout_draws (s : State) (tag : BitVec 3) (v : BitVec 256) : (s.withCout tag v).draws = s.draws := rfl
@[simp] theorem withCout_hostRead (s : State) (tag : BitVec 3) (v : BitVec 256) : (s.withCout tag v).hostRead = s.hostRead := rfl

@[simp] theorem withSlot_cfg (s : State) (t : BitVec 8) {w : Width} (v : BitVec w.bits) : (s.withSlot t v).cfg = s.cfg := rfl
@[simp] theorem withSlot_cmd (s : State) (t : BitVec 8) {w : Width} (v : BitVec w.bits) : (s.withSlot t v).cmd = s.cmd := rfl
@[simp] theorem withSlot_status (s : State) (t : BitVec 8) {w : Width} (v : BitVec w.bits) : (s.withSlot t v).status = s.status := rfl
@[simp] theorem withSlot_cinTag (s : State) (t : BitVec 8) {w : Width} (v : BitVec w.bits) : (s.withSlot t v).cinTag = s.cinTag := rfl
@[simp] theorem withSlot_coutTag (s : State) (t : BitVec 8) {w : Width} (v : BitVec w.bits) : (s.withSlot t v).coutTag = s.coutTag := rfl
@[simp] theorem withSlot_cin0 (s : State) (t : BitVec 8) {w : Width} (v : BitVec w.bits) : (s.withSlot t v).cin0 = s.cin0 := rfl
@[simp] theorem withSlot_cin1 (s : State) (t : BitVec 8) {w : Width} (v : BitVec w.bits) : (s.withSlot t v).cin1 = s.cin1 := rfl
@[simp] theorem withSlot_cin2 (s : State) (t : BitVec 8) {w : Width} (v : BitVec w.bits) : (s.withSlot t v).cin2 = s.cin2 := rfl
@[simp] theorem withSlot_cin3 (s : State) (t : BitVec 8) {w : Width} (v : BitVec w.bits) : (s.withSlot t v).cin3 = s.cin3 := rfl
@[simp] theorem withSlot_cout0 (s : State) (t : BitVec 8) {w : Width} (v : BitVec w.bits) : (s.withSlot t v).cout0 = s.cout0 := rfl
@[simp] theorem withSlot_cout1 (s : State) (t : BitVec 8) {w : Width} (v : BitVec w.bits) : (s.withSlot t v).cout1 = s.cout1 := rfl
@[simp] theorem withSlot_cout2 (s : State) (t : BitVec 8) {w : Width} (v : BitVec w.bits) : (s.withSlot t v).cout2 = s.cout2 := rfl
@[simp] theorem withSlot_cout3 (s : State) (t : BitVec 8) {w : Width} (v : BitVec w.bits) : (s.withSlot t v).cout3 = s.cout3 := rfl
@[simp] theorem withSlot_wok (s : State) (t : BitVec 8) {w : Width} (v : BitVec w.bits) : (s.withSlot t v).wok = s.wok := rfl
@[simp] theorem withSlot_wfail (s : State) (t : BitVec 8) {w : Width} (v : BitVec w.bits) : (s.withSlot t v).wfail = s.wfail := rfl
@[simp] theorem withSlot_tgt (s : State) (t : BitVec 8) {w : Width} (v : BitVec w.bits) : (s.withSlot t v).tgt = s.tgt := rfl
@[simp] theorem withSlot_unit (s : State) (t : BitVec 8) {w : Width} (v : BitVec w.bits) : (s.withSlot t v).unit = s.unit := rfl
@[simp] theorem withSlot_slots (s : State) (t : BitVec 8) {w : Width} (v : BitVec w.bits) : (s.withSlot t v).slots = slotUpdate s.slots t.toNat (v.setWidth 256) := rfl
@[simp] theorem withSlot_turns (s : State) (t : BitVec 8) {w : Width} (v : BitVec w.bits) : (s.withSlot t v).turns = s.turns := rfl
@[simp] theorem withSlot_answers (s : State) (t : BitVec 8) {w : Width} (v : BitVec w.bits) : (s.withSlot t v).answers = s.answers := rfl
@[simp] theorem withSlot_draws (s : State) (t : BitVec 8) {w : Width} (v : BitVec w.bits) : (s.withSlot t v).draws = s.draws := rfl
@[simp] theorem withSlot_hostRead (s : State) (t : BitVec 8) {w : Width} (v : BitVec w.bits) : (s.withSlot t v).hostRead = s.hostRead := rfl

@[simp] theorem afterDraw_cfg (s : State) : (s.afterDraw).cfg = s.cfg := rfl
@[simp] theorem afterDraw_cmd (s : State) : (s.afterDraw).cmd = s.cmd := rfl
@[simp] theorem afterDraw_status (s : State) : (s.afterDraw).status = s.status := rfl
@[simp] theorem afterDraw_cinTag (s : State) : (s.afterDraw).cinTag = s.cinTag := rfl
@[simp] theorem afterDraw_coutTag (s : State) : (s.afterDraw).coutTag = s.coutTag := rfl
@[simp] theorem afterDraw_cin0 (s : State) : (s.afterDraw).cin0 = s.cin0 := rfl
@[simp] theorem afterDraw_cin1 (s : State) : (s.afterDraw).cin1 = s.cin1 := rfl
@[simp] theorem afterDraw_cin2 (s : State) : (s.afterDraw).cin2 = s.cin2 := rfl
@[simp] theorem afterDraw_cin3 (s : State) : (s.afterDraw).cin3 = s.cin3 := rfl
@[simp] theorem afterDraw_cout0 (s : State) : (s.afterDraw).cout0 = s.cout0 := rfl
@[simp] theorem afterDraw_cout1 (s : State) : (s.afterDraw).cout1 = s.cout1 := rfl
@[simp] theorem afterDraw_cout2 (s : State) : (s.afterDraw).cout2 = s.cout2 := rfl
@[simp] theorem afterDraw_cout3 (s : State) : (s.afterDraw).cout3 = s.cout3 := rfl
@[simp] theorem afterDraw_wok (s : State) : (s.afterDraw).wok = s.wok := rfl
@[simp] theorem afterDraw_wfail (s : State) : (s.afterDraw).wfail = s.wfail := rfl
@[simp] theorem afterDraw_tgt (s : State) : (s.afterDraw).tgt = s.tgt := rfl
@[simp] theorem afterDraw_unit (s : State) : (s.afterDraw).unit = s.unit := rfl
@[simp] theorem afterDraw_slots (s : State) : (s.afterDraw).slots = s.slots := rfl
@[simp] theorem afterDraw_turns (s : State) : (s.afterDraw).turns = s.turns := rfl
@[simp] theorem afterDraw_answers (s : State) : (s.afterDraw).answers = s.answers.tail := rfl
@[simp] theorem afterDraw_draws (s : State) : (s.afterDraw).draws = s.draws + 1 := rfl
@[simp] theorem afterDraw_hostRead (s : State) : (s.afterDraw).hostRead = s.hostRead := rfl

@[simp] theorem finishWith_cfg (s : State) (st : BitVec 16) : (s.finishWith st).cfg = s.cfg := rfl
@[simp] theorem finishWith_cmd (s : State) (st : BitVec 16) : (s.finishWith st).cmd = s.cmd := rfl
@[simp] theorem finishWith_status (s : State) (st : BitVec 16) : (s.finishWith st).status = st := rfl
@[simp] theorem finishWith_cinTag (s : State) (st : BitVec 16) : (s.finishWith st).cinTag = s.cinTag := rfl
@[simp] theorem finishWith_coutTag (s : State) (st : BitVec 16) : (s.finishWith st).coutTag = s.coutTag := rfl
@[simp] theorem finishWith_cin0 (s : State) (st : BitVec 16) : (s.finishWith st).cin0 = s.cin0 := rfl
@[simp] theorem finishWith_cin1 (s : State) (st : BitVec 16) : (s.finishWith st).cin1 = s.cin1 := rfl
@[simp] theorem finishWith_cin2 (s : State) (st : BitVec 16) : (s.finishWith st).cin2 = s.cin2 := rfl
@[simp] theorem finishWith_cin3 (s : State) (st : BitVec 16) : (s.finishWith st).cin3 = s.cin3 := rfl
@[simp] theorem finishWith_cout0 (s : State) (st : BitVec 16) : (s.finishWith st).cout0 = s.cout0 := rfl
@[simp] theorem finishWith_cout1 (s : State) (st : BitVec 16) : (s.finishWith st).cout1 = s.cout1 := rfl
@[simp] theorem finishWith_cout2 (s : State) (st : BitVec 16) : (s.finishWith st).cout2 = s.cout2 := rfl
@[simp] theorem finishWith_cout3 (s : State) (st : BitVec 16) : (s.finishWith st).cout3 = s.cout3 := rfl
@[simp] theorem finishWith_wok (s : State) (st : BitVec 16) : (s.finishWith st).wok = s.wok := rfl
@[simp] theorem finishWith_wfail (s : State) (st : BitVec 16) : (s.finishWith st).wfail = s.wfail := rfl
@[simp] theorem finishWith_tgt (s : State) (st : BitVec 16) : (s.finishWith st).tgt = s.tgt := rfl
@[simp] theorem finishWith_unit (s : State) (st : BitVec 16) : (s.finishWith st).unit = .idle := rfl
@[simp] theorem finishWith_slots (s : State) (st : BitVec 16) : (s.finishWith st).slots = s.slots := rfl
@[simp] theorem finishWith_turns (s : State) (st : BitVec 16) : (s.finishWith st).turns = s.turns := rfl
@[simp] theorem finishWith_answers (s : State) (st : BitVec 16) : (s.finishWith st).answers = s.answers := rfl
@[simp] theorem finishWith_draws (s : State) (st : BitVec 16) : (s.finishWith st).draws = s.draws := rfl
@[simp] theorem finishWith_hostRead (s : State) (st : BitVec 16) : (s.finishWith st).hostRead = s.hostRead := rfl

@[simp] theorem raiseError_cfg (e : ErrCode) (s : State) : (raiseError e s).cfg = s.cfg := rfl
@[simp] theorem raiseError_cmd (e : ErrCode) (s : State) : (raiseError e s).cmd = s.cmd := rfl
@[simp] theorem raiseError_status (e : ErrCode) (s : State) : (raiseError e s).status = endStatus e s.status := rfl
@[simp] theorem raiseError_cinTag (e : ErrCode) (s : State) : (raiseError e s).cinTag = s.cinTag := rfl
@[simp] theorem raiseError_coutTag (e : ErrCode) (s : State) : (raiseError e s).coutTag = s.coutTag := rfl
@[simp] theorem raiseError_cin0 (e : ErrCode) (s : State) : (raiseError e s).cin0 = s.cin0 := rfl
@[simp] theorem raiseError_cin1 (e : ErrCode) (s : State) : (raiseError e s).cin1 = s.cin1 := rfl
@[simp] theorem raiseError_cin2 (e : ErrCode) (s : State) : (raiseError e s).cin2 = s.cin2 := rfl
@[simp] theorem raiseError_cin3 (e : ErrCode) (s : State) : (raiseError e s).cin3 = s.cin3 := rfl
@[simp] theorem raiseError_cout0 (e : ErrCode) (s : State) : (raiseError e s).cout0 = s.cout0 := rfl
@[simp] theorem raiseError_cout1 (e : ErrCode) (s : State) : (raiseError e s).cout1 = s.cout1 := rfl
@[simp] theorem raiseError_cout2 (e : ErrCode) (s : State) : (raiseError e s).cout2 = s.cout2 := rfl
@[simp] theorem raiseError_cout3 (e : ErrCode) (s : State) : (raiseError e s).cout3 = s.cout3 := rfl
@[simp] theorem raiseError_wok (e : ErrCode) (s : State) : (raiseError e s).wok = s.wok := rfl
@[simp] theorem raiseError_wfail (e : ErrCode) (s : State) : (raiseError e s).wfail = s.wfail := rfl
@[simp] theorem raiseError_tgt (e : ErrCode) (s : State) : (raiseError e s).tgt = s.tgt := rfl
@[simp] theorem raiseError_unit (e : ErrCode) (s : State) : (raiseError e s).unit = .idle := rfl
@[simp] theorem raiseError_slots (e : ErrCode) (s : State) : (raiseError e s).slots = s.slots := rfl
@[simp] theorem raiseError_turns (e : ErrCode) (s : State) : (raiseError e s).turns = s.turns := rfl
@[simp] theorem raiseError_answers (e : ErrCode) (s : State) : (raiseError e s).answers = s.answers := rfl
@[simp] theorem raiseError_draws (e : ErrCode) (s : State) : (raiseError e s).draws = s.draws := rfl
@[simp] theorem raiseError_hostRead (e : ErrCode) (s : State) : (raiseError e s).hostRead = s.hostRead := rfl

@[simp] theorem commandStart_cfg (c : BitVec 32) (s : State) : (commandStart c s).cfg = s.cfg := rfl
@[simp] theorem commandStart_cmd (c : BitVec 32) (s : State) : (commandStart c s).cmd = c := rfl
@[simp] theorem commandStart_status (c : BitVec 32) (s : State) : (commandStart c s).status = startStatus := rfl
@[simp] theorem commandStart_cinTag (c : BitVec 32) (s : State) : (commandStart c s).cinTag = s.cinTag := rfl
@[simp] theorem commandStart_coutTag (c : BitVec 32) (s : State) : (commandStart c s).coutTag = s.coutTag := rfl
@[simp] theorem commandStart_cin0 (c : BitVec 32) (s : State) : (commandStart c s).cin0 = s.cin0 := rfl
@[simp] theorem commandStart_cin1 (c : BitVec 32) (s : State) : (commandStart c s).cin1 = s.cin1 := rfl
@[simp] theorem commandStart_cin2 (c : BitVec 32) (s : State) : (commandStart c s).cin2 = s.cin2 := rfl
@[simp] theorem commandStart_cin3 (c : BitVec 32) (s : State) : (commandStart c s).cin3 = s.cin3 := rfl
@[simp] theorem commandStart_cout0 (c : BitVec 32) (s : State) : (commandStart c s).cout0 = s.cout0 := rfl
@[simp] theorem commandStart_cout1 (c : BitVec 32) (s : State) : (commandStart c s).cout1 = s.cout1 := rfl
@[simp] theorem commandStart_cout2 (c : BitVec 32) (s : State) : (commandStart c s).cout2 = s.cout2 := rfl
@[simp] theorem commandStart_cout3 (c : BitVec 32) (s : State) : (commandStart c s).cout3 = s.cout3 := rfl
@[simp] theorem commandStart_wok (c : BitVec 32) (s : State) : (commandStart c s).wok = 0#64 := rfl
@[simp] theorem commandStart_wfail (c : BitVec 32) (s : State) : (commandStart c s).wfail = 0#64 := rfl
@[simp] theorem commandStart_tgt (c : BitVec 32) (s : State) : (commandStart c s).tgt = s.tgt := rfl
@[simp] theorem commandStart_unit (c : BitVec 32) (s : State) : (commandStart c s).unit = .run { snap := snapshot c s, i := 0, ph := .check, tmp := 0#256, acc := ⟨false, false, false⟩ } := rfl
@[simp] theorem commandStart_slots (c : BitVec 32) (s : State) : (commandStart c s).slots = s.slots := rfl
@[simp] theorem commandStart_turns (c : BitVec 32) (s : State) : (commandStart c s).turns = s.turns := rfl
@[simp] theorem commandStart_answers (c : BitVec 32) (s : State) : (commandStart c s).answers = s.answers := rfl
@[simp] theorem commandStart_draws (c : BitVec 32) (s : State) : (commandStart c s).draws = s.draws := rfl
@[simp] theorem commandStart_hostRead (c : BitVec 32) (s : State) : (commandStart c s).hostRead = s.hostRead := rfl

@[simp] theorem withRun_cfg (s : State) (r : RunState) : (s.withRun r).cfg = s.cfg := rfl
@[simp] theorem withRun_cmd (s : State) (r : RunState) : (s.withRun r).cmd = s.cmd := rfl
@[simp] theorem withRun_status (s : State) (r : RunState) : (s.withRun r).status = s.status := rfl
@[simp] theorem withRun_cinTag (s : State) (r : RunState) : (s.withRun r).cinTag = s.cinTag := rfl
@[simp] theorem withRun_coutTag (s : State) (r : RunState) : (s.withRun r).coutTag = s.coutTag := rfl
@[simp] theorem withRun_cin0 (s : State) (r : RunState) : (s.withRun r).cin0 = s.cin0 := rfl
@[simp] theorem withRun_cin1 (s : State) (r : RunState) : (s.withRun r).cin1 = s.cin1 := rfl
@[simp] theorem withRun_cin2 (s : State) (r : RunState) : (s.withRun r).cin2 = s.cin2 := rfl
@[simp] theorem withRun_cin3 (s : State) (r : RunState) : (s.withRun r).cin3 = s.cin3 := rfl
@[simp] theorem withRun_cout0 (s : State) (r : RunState) : (s.withRun r).cout0 = s.cout0 := rfl
@[simp] theorem withRun_cout1 (s : State) (r : RunState) : (s.withRun r).cout1 = s.cout1 := rfl
@[simp] theorem withRun_cout2 (s : State) (r : RunState) : (s.withRun r).cout2 = s.cout2 := rfl
@[simp] theorem withRun_cout3 (s : State) (r : RunState) : (s.withRun r).cout3 = s.cout3 := rfl
@[simp] theorem withRun_wok (s : State) (r : RunState) : (s.withRun r).wok = s.wok := rfl
@[simp] theorem withRun_wfail (s : State) (r : RunState) : (s.withRun r).wfail = s.wfail := rfl
@[simp] theorem withRun_tgt (s : State) (r : RunState) : (s.withRun r).tgt = s.tgt := rfl
@[simp] theorem withRun_unit (s : State) (r : RunState) : (s.withRun r).unit = .run r := rfl
@[simp] theorem withRun_slots (s : State) (r : RunState) : (s.withRun r).slots = s.slots := rfl
@[simp] theorem withRun_turns (s : State) (r : RunState) : (s.withRun r).turns = s.turns := rfl
@[simp] theorem withRun_answers (s : State) (r : RunState) : (s.withRun r).answers = s.answers := rfl
@[simp] theorem withRun_draws (s : State) (r : RunState) : (s.withRun r).draws = s.draws := rfl
@[simp] theorem withRun_hostRead (s : State) (r : RunState) : (s.withRun r).hostRead = s.hostRead := rfl

@[simp] theorem withHostRead_cfg (s : State) (v : BitVec 256) : (s.withHostRead v).cfg = s.cfg := rfl
@[simp] theorem withHostRead_cmd (s : State) (v : BitVec 256) : (s.withHostRead v).cmd = s.cmd := rfl
@[simp] theorem withHostRead_status (s : State) (v : BitVec 256) : (s.withHostRead v).status = s.status := rfl
@[simp] theorem withHostRead_cinTag (s : State) (v : BitVec 256) : (s.withHostRead v).cinTag = s.cinTag := rfl
@[simp] theorem withHostRead_coutTag (s : State) (v : BitVec 256) : (s.withHostRead v).coutTag = s.coutTag := rfl
@[simp] theorem withHostRead_cin0 (s : State) (v : BitVec 256) : (s.withHostRead v).cin0 = s.cin0 := rfl
@[simp] theorem withHostRead_cin1 (s : State) (v : BitVec 256) : (s.withHostRead v).cin1 = s.cin1 := rfl
@[simp] theorem withHostRead_cin2 (s : State) (v : BitVec 256) : (s.withHostRead v).cin2 = s.cin2 := rfl
@[simp] theorem withHostRead_cin3 (s : State) (v : BitVec 256) : (s.withHostRead v).cin3 = s.cin3 := rfl
@[simp] theorem withHostRead_cout0 (s : State) (v : BitVec 256) : (s.withHostRead v).cout0 = s.cout0 := rfl
@[simp] theorem withHostRead_cout1 (s : State) (v : BitVec 256) : (s.withHostRead v).cout1 = s.cout1 := rfl
@[simp] theorem withHostRead_cout2 (s : State) (v : BitVec 256) : (s.withHostRead v).cout2 = s.cout2 := rfl
@[simp] theorem withHostRead_cout3 (s : State) (v : BitVec 256) : (s.withHostRead v).cout3 = s.cout3 := rfl
@[simp] theorem withHostRead_wok (s : State) (v : BitVec 256) : (s.withHostRead v).wok = s.wok := rfl
@[simp] theorem withHostRead_wfail (s : State) (v : BitVec 256) : (s.withHostRead v).wfail = s.wfail := rfl
@[simp] theorem withHostRead_tgt (s : State) (v : BitVec 256) : (s.withHostRead v).tgt = s.tgt := rfl
@[simp] theorem withHostRead_unit (s : State) (v : BitVec 256) : (s.withHostRead v).unit = s.unit := rfl
@[simp] theorem withHostRead_slots (s : State) (v : BitVec 256) : (s.withHostRead v).slots = s.slots := rfl
@[simp] theorem withHostRead_turns (s : State) (v : BitVec 256) : (s.withHostRead v).turns = s.turns := rfl
@[simp] theorem withHostRead_answers (s : State) (v : BitVec 256) : (s.withHostRead v).answers = s.answers := rfl
@[simp] theorem withHostRead_draws (s : State) (v : BitVec 256) : (s.withHostRead v).draws = s.draws := rfl
@[simp] theorem withHostRead_hostRead (s : State) (v : BitVec 256) : (s.withHostRead v).hostRead = v := rfl

@[simp] theorem withTurns_cfg (s : State) (l : List Turn) : (s.withTurns l).cfg = s.cfg := rfl
@[simp] theorem withTurns_cmd (s : State) (l : List Turn) : (s.withTurns l).cmd = s.cmd := rfl
@[simp] theorem withTurns_status (s : State) (l : List Turn) : (s.withTurns l).status = s.status := rfl
@[simp] theorem withTurns_cinTag (s : State) (l : List Turn) : (s.withTurns l).cinTag = s.cinTag := rfl
@[simp] theorem withTurns_coutTag (s : State) (l : List Turn) : (s.withTurns l).coutTag = s.coutTag := rfl
@[simp] theorem withTurns_cin0 (s : State) (l : List Turn) : (s.withTurns l).cin0 = s.cin0 := rfl
@[simp] theorem withTurns_cin1 (s : State) (l : List Turn) : (s.withTurns l).cin1 = s.cin1 := rfl
@[simp] theorem withTurns_cin2 (s : State) (l : List Turn) : (s.withTurns l).cin2 = s.cin2 := rfl
@[simp] theorem withTurns_cin3 (s : State) (l : List Turn) : (s.withTurns l).cin3 = s.cin3 := rfl
@[simp] theorem withTurns_cout0 (s : State) (l : List Turn) : (s.withTurns l).cout0 = s.cout0 := rfl
@[simp] theorem withTurns_cout1 (s : State) (l : List Turn) : (s.withTurns l).cout1 = s.cout1 := rfl
@[simp] theorem withTurns_cout2 (s : State) (l : List Turn) : (s.withTurns l).cout2 = s.cout2 := rfl
@[simp] theorem withTurns_cout3 (s : State) (l : List Turn) : (s.withTurns l).cout3 = s.cout3 := rfl
@[simp] theorem withTurns_wok (s : State) (l : List Turn) : (s.withTurns l).wok = s.wok := rfl
@[simp] theorem withTurns_wfail (s : State) (l : List Turn) : (s.withTurns l).wfail = s.wfail := rfl
@[simp] theorem withTurns_tgt (s : State) (l : List Turn) : (s.withTurns l).tgt = s.tgt := rfl
@[simp] theorem withTurns_unit (s : State) (l : List Turn) : (s.withTurns l).unit = s.unit := rfl
@[simp] theorem withTurns_slots (s : State) (l : List Turn) : (s.withTurns l).slots = s.slots := rfl
@[simp] theorem withTurns_turns (s : State) (l : List Turn) : (s.withTurns l).turns = l := rfl
@[simp] theorem withTurns_answers (s : State) (l : List Turn) : (s.withTurns l).answers = s.answers := rfl
@[simp] theorem withTurns_draws (s : State) (l : List Turn) : (s.withTurns l).draws = s.draws := rfl
@[simp] theorem withTurns_hostRead (s : State) (l : List Turn) : (s.withTurns l).hostRead = s.hostRead := rfl

@[simp] theorem report_cfg (s : State) (i : Nat) (ok : Bool) : (s.report i ok).cfg = s.cfg := by
  cases ok <;> rfl
@[simp] theorem report_cmd (s : State) (i : Nat) (ok : Bool) : (s.report i ok).cmd = s.cmd := by
  cases ok <;> rfl
@[simp] theorem report_status (s : State) (i : Nat) (ok : Bool) : (s.report i ok).status = s.status := by
  cases ok <;> rfl
@[simp] theorem report_cinTag (s : State) (i : Nat) (ok : Bool) : (s.report i ok).cinTag = s.cinTag := by
  cases ok <;> rfl
@[simp] theorem report_coutTag (s : State) (i : Nat) (ok : Bool) : (s.report i ok).coutTag = s.coutTag := by
  cases ok <;> rfl
@[simp] theorem report_cin0 (s : State) (i : Nat) (ok : Bool) : (s.report i ok).cin0 = s.cin0 := by
  cases ok <;> rfl
@[simp] theorem report_cin1 (s : State) (i : Nat) (ok : Bool) : (s.report i ok).cin1 = s.cin1 := by
  cases ok <;> rfl
@[simp] theorem report_cin2 (s : State) (i : Nat) (ok : Bool) : (s.report i ok).cin2 = s.cin2 := by
  cases ok <;> rfl
@[simp] theorem report_cin3 (s : State) (i : Nat) (ok : Bool) : (s.report i ok).cin3 = s.cin3 := by
  cases ok <;> rfl
@[simp] theorem report_cout0 (s : State) (i : Nat) (ok : Bool) : (s.report i ok).cout0 = s.cout0 := by
  cases ok <;> rfl
@[simp] theorem report_cout1 (s : State) (i : Nat) (ok : Bool) : (s.report i ok).cout1 = s.cout1 := by
  cases ok <;> rfl
@[simp] theorem report_cout2 (s : State) (i : Nat) (ok : Bool) : (s.report i ok).cout2 = s.cout2 := by
  cases ok <;> rfl
@[simp] theorem report_cout3 (s : State) (i : Nat) (ok : Bool) : (s.report i ok).cout3 = s.cout3 := by
  cases ok <;> rfl
@[simp] theorem report_wok (s : State) (i : Nat) (ok : Bool) : (s.report i ok).wok = if ok then s.wok ||| (1#64 <<< i) else s.wok := by
  cases ok <;> rfl
@[simp] theorem report_wfail (s : State) (i : Nat) (ok : Bool) : (s.report i ok).wfail = if ok then s.wfail else s.wfail ||| (1#64 <<< i) := by
  cases ok <;> rfl
@[simp] theorem report_tgt (s : State) (i : Nat) (ok : Bool) : (s.report i ok).tgt = s.tgt := by
  cases ok <;> rfl
@[simp] theorem report_unit (s : State) (i : Nat) (ok : Bool) : (s.report i ok).unit = s.unit := by
  cases ok <;> rfl
@[simp] theorem report_slots (s : State) (i : Nat) (ok : Bool) : (s.report i ok).slots = s.slots := by
  cases ok <;> rfl
@[simp] theorem report_turns (s : State) (i : Nat) (ok : Bool) : (s.report i ok).turns = s.turns := by
  cases ok <;> rfl
@[simp] theorem report_answers (s : State) (i : Nat) (ok : Bool) : (s.report i ok).answers = s.answers := by
  cases ok <;> rfl
@[simp] theorem report_draws (s : State) (i : Nat) (ok : Bool) : (s.report i ok).draws = s.draws := by
  cases ok <;> rfl
@[simp] theorem report_hostRead (s : State) (i : Nat) (ok : Bool) : (s.report i ok).hostRead = s.hostRead := by
  cases ok <;> rfl

@[simp] theorem resetBlock_cfg (s : State) : (resetBlock s).cfg = s.cfg := rfl
@[simp] theorem resetBlock_cmd (s : State) : (resetBlock s).cmd = 0#32 := rfl
@[simp] theorem resetBlock_status (s : State) : (resetBlock s).status = 0#16 := rfl
@[simp] theorem resetBlock_cinTag (s : State) : (resetBlock s).cinTag = 0#3 := rfl
@[simp] theorem resetBlock_coutTag (s : State) : (resetBlock s).coutTag = 0#3 := rfl
@[simp] theorem resetBlock_cin0 (s : State) : (resetBlock s).cin0 = 0#64 := rfl
@[simp] theorem resetBlock_cin1 (s : State) : (resetBlock s).cin1 = 0#64 := rfl
@[simp] theorem resetBlock_cin2 (s : State) : (resetBlock s).cin2 = 0#64 := rfl
@[simp] theorem resetBlock_cin3 (s : State) : (resetBlock s).cin3 = 0#64 := rfl
@[simp] theorem resetBlock_cout0 (s : State) : (resetBlock s).cout0 = 0#64 := rfl
@[simp] theorem resetBlock_cout1 (s : State) : (resetBlock s).cout1 = 0#64 := rfl
@[simp] theorem resetBlock_cout2 (s : State) : (resetBlock s).cout2 = 0#64 := rfl
@[simp] theorem resetBlock_cout3 (s : State) : (resetBlock s).cout3 = 0#64 := rfl
@[simp] theorem resetBlock_wok (s : State) : (resetBlock s).wok = 0#64 := rfl
@[simp] theorem resetBlock_wfail (s : State) : (resetBlock s).wfail = 0#64 := rfl
@[simp] theorem resetBlock_tgt (s : State) : (resetBlock s).tgt = List.replicate s.cfg.nmax 0#8 := rfl
@[simp] theorem resetBlock_unit (s : State) : (resetBlock s).unit = .idle := rfl
@[simp] theorem resetBlock_slots (s : State) : (resetBlock s).slots = s.slots := rfl
@[simp] theorem resetBlock_turns (s : State) : (resetBlock s).turns = s.turns := rfl
@[simp] theorem resetBlock_answers (s : State) : (resetBlock s).answers = s.answers := rfl
@[simp] theorem resetBlock_draws (s : State) : (resetBlock s).draws = s.draws := rfl
@[simp] theorem resetBlock_hostRead (s : State) : (resetBlock s).hostRead = s.hostRead := rfl

@[simp] theorem launch_cfg (cfg : Config) (m : SlotMemory) : (State.launch cfg m).cfg = cfg := rfl
@[simp] theorem launch_cmd (cfg : Config) (m : SlotMemory) : (State.launch cfg m).cmd = 0#32 := rfl
@[simp] theorem launch_status (cfg : Config) (m : SlotMemory) : (State.launch cfg m).status = 0#16 := rfl
@[simp] theorem launch_cinTag (cfg : Config) (m : SlotMemory) : (State.launch cfg m).cinTag = 0#3 := rfl
@[simp] theorem launch_coutTag (cfg : Config) (m : SlotMemory) : (State.launch cfg m).coutTag = 0#3 := rfl
@[simp] theorem launch_cin0 (cfg : Config) (m : SlotMemory) : (State.launch cfg m).cin0 = 0#64 := rfl
@[simp] theorem launch_cin1 (cfg : Config) (m : SlotMemory) : (State.launch cfg m).cin1 = 0#64 := rfl
@[simp] theorem launch_cin2 (cfg : Config) (m : SlotMemory) : (State.launch cfg m).cin2 = 0#64 := rfl
@[simp] theorem launch_cin3 (cfg : Config) (m : SlotMemory) : (State.launch cfg m).cin3 = 0#64 := rfl
@[simp] theorem launch_cout0 (cfg : Config) (m : SlotMemory) : (State.launch cfg m).cout0 = 0#64 := rfl
@[simp] theorem launch_cout1 (cfg : Config) (m : SlotMemory) : (State.launch cfg m).cout1 = 0#64 := rfl
@[simp] theorem launch_cout2 (cfg : Config) (m : SlotMemory) : (State.launch cfg m).cout2 = 0#64 := rfl
@[simp] theorem launch_cout3 (cfg : Config) (m : SlotMemory) : (State.launch cfg m).cout3 = 0#64 := rfl
@[simp] theorem launch_wok (cfg : Config) (m : SlotMemory) : (State.launch cfg m).wok = 0#64 := rfl
@[simp] theorem launch_wfail (cfg : Config) (m : SlotMemory) : (State.launch cfg m).wfail = 0#64 := rfl
@[simp] theorem launch_tgt (cfg : Config) (m : SlotMemory) : (State.launch cfg m).tgt = List.replicate cfg.nmax 0#8 := rfl
@[simp] theorem launch_unit (cfg : Config) (m : SlotMemory) : (State.launch cfg m).unit = .idle := rfl
@[simp] theorem launch_slots (cfg : Config) (m : SlotMemory) : (State.launch cfg m).slots = m := rfl
@[simp] theorem launch_turns (cfg : Config) (m : SlotMemory) : (State.launch cfg m).turns = [] := rfl
@[simp] theorem launch_answers (cfg : Config) (m : SlotMemory) : (State.launch cfg m).answers = [] := rfl
@[simp] theorem launch_draws (cfg : Config) (m : SlotMemory) : (State.launch cfg m).draws = 0 := rfl
@[simp] theorem launch_hostRead (cfg : Config) (m : SlotMemory) : (State.launch cfg m).hostRead = 0#256 := rfl

end Sys2Proof.Machine
end

