-- ==== Sys2Proof/Laws/Memory.lean ====
section
/-! SUPPORT. The laws of the slot memory: reading after an update, and the canonical form every update keeps. -/

namespace Sys2Proof.Machine

@[simp] theorem slotLookup_nil (t : Nat) : slotLookup [] t = 0#256 := rfl

theorem slotLookup_cons (a : Nat) (x : BitVec 256) (m : SlotMemory) (t : Nat) :
    slotLookup ((a, x) :: m) t = if a = t then x else slotLookup m t := rfl

/-- A handle below every listed one holds 0. -/
theorem slotLookup_eq_zero_of_lt {m : SlotMemory} {t : Nat} (h : ∀ c ∈ m, t < c.1) : slotLookup m t = 0#256 := by
  induction m with
  | nil => rfl
  | cons c m ih =>
    have hc : t < c.1 := h c (by simp)
    rw [slotLookup_cons c.1 c.2, if_neg (by omega)]
    exact ih fun d hd => h d (by simp [hd])

/-- An update of slot `t` leaves every other slot as it was (20_memory.md R72). -/
theorem slotLookup_update_other {m : SlotMemory} {t a : Nat} (v : BitVec 256) (h : a ≠ t) :
    slotLookup (slotUpdate m t v) a = slotLookup m a := by
  induction m with
  | nil => by_cases hv : v = 0#256 <;> simp [slotUpdate, hv, slotLookup_cons, Ne.symm h]
  | cons c m ih =>
    obtain ⟨b, x⟩ := c
    simp only [slotUpdate]
    split
    · split
      · rfl
      · rw [slotLookup_cons, if_neg (Ne.symm h)]
    · split
      · rename_i hb
        subst hb
        split <;> simp [slotLookup_cons, Ne.symm h]
      · simp only [slotLookup_cons, ih]

/-- An updated slot reads as the new contents (20_memory.md R63). -/
theorem slotLookup_update_same {m : SlotMemory} (hm : Memory.wf m) (t : Nat) (v : BitVec 256) :
    slotLookup (slotUpdate m t v) t = v := by
  induction m with
  | nil => by_cases hv : v = 0#256 <;> simp [slotUpdate, hv, slotLookup_cons]
  | cons c m ih =>
    obtain ⟨b, x⟩ := c
    have hlt : ∀ d ∈ m, b < d.1 := (List.pairwise_cons.mp hm.1).1
    have htail : Memory.wf m := ⟨(List.pairwise_cons.mp hm.1).2, fun d hd => hm.2 d (by simp [hd])⟩
    simp only [slotUpdate]
    split
    · rename_i hb
      split
      · rename_i hv
        rw [hv]
        refine slotLookup_eq_zero_of_lt fun d hd => ?_
        rcases List.mem_cons.mp hd with rfl | hd
        · exact hb
        · exact Nat.lt_trans hb (hlt d hd)
      · rw [slotLookup_cons, if_pos rfl]
    · split
      · rename_i hb
        subst hb
        split
        · rename_i hv
          rw [hv]
          exact slotLookup_eq_zero_of_lt hlt
        · rw [slotLookup_cons, if_pos rfl]
      · rename_i hb
        rw [slotLookup_cons, if_neg (Ne.symm hb)]
        exact ih htail

/-- What an updated memory lists: the new cell, or a cell of another handle that was listed before. -/
theorem mem_slotUpdate {m : SlotMemory} (hm : Memory.wf m) {t : Nat} {v : BitVec 256} {c : SlotCell}
    (h : c ∈ slotUpdate m t v) : (c = (t, v) ∧ v ≠ 0#256) ∨ (c ∈ m ∧ c.1 ≠ t) := by
  induction m with
  | nil =>
    by_cases hv : v = 0#256
    · simp [slotUpdate, hv] at h
    · simp only [slotUpdate, hv, if_false, List.mem_singleton] at h
      exact .inl ⟨h, hv⟩
  | cons d m ih =>
    obtain ⟨b, x⟩ := d
    have hlt : ∀ d ∈ m, b < d.1 := (List.pairwise_cons.mp hm.1).1
    have htail : Memory.wf m := ⟨(List.pairwise_cons.mp hm.1).2, fun d hd => hm.2 d (by simp [hd])⟩
    have old : t < b → c ∈ (b, x) :: m → c.1 ≠ t := fun hb hc => by
      rcases List.mem_cons.mp hc with rfl | hc
      · exact fun e => absurd e (Nat.ne_of_gt hb)
      · have := hlt c hc; omega
    simp only [slotUpdate] at h
    split at h
    · rename_i hb
      split at h
      · exact .inr ⟨h, old hb h⟩
      · rename_i hv
        rcases List.mem_cons.mp h with rfl | h
        · exact .inl ⟨rfl, hv⟩
        · exact .inr ⟨h, old hb h⟩
    · split at h
      · rename_i hb
        subst hb
        split at h
        · exact .inr ⟨List.mem_cons_of_mem _ h, by have := hlt c h; omega⟩
        · rename_i hv
          rcases List.mem_cons.mp h with rfl | h
          · exact .inl ⟨rfl, hv⟩
          · exact .inr ⟨List.mem_cons_of_mem _ h, by have := hlt c h; omega⟩
      · rename_i hb
        rcases List.mem_cons.mp h with rfl | h
        · exact .inr ⟨by simp, fun e => hb e.symm⟩
        · rcases ih htail h with h | ⟨h, hne⟩
          · exact .inl h
          · exact .inr ⟨List.mem_cons_of_mem _ h, hne⟩

/-- Every update keeps the canonical form of the slot memory (log 1). -/
theorem slotUpdate_wf {m : SlotMemory} (hm : Memory.wf m) (t : Nat) (v : BitVec 256) :
    Memory.wf (slotUpdate m t v) := by
  refine ⟨?_, fun c hc => ?_⟩
  · induction m with
    | nil => by_cases hv : v = 0#256 <;> simp [slotUpdate, hv]
    | cons d m ih =>
      obtain ⟨b, x⟩ := d
      have hlt : ∀ d ∈ m, b < d.1 := (List.pairwise_cons.mp hm.1).1
      have hp : m.Pairwise (fun c d => c.1 < d.1) := (List.pairwise_cons.mp hm.1).2
      have htail : Memory.wf m := ⟨hp, fun d hd => hm.2 d (by simp [hd])⟩
      simp only [slotUpdate]
      split
      · rename_i hb
        split
        · exact hm.1
        · refine List.pairwise_cons.mpr ⟨fun d hd => ?_, hm.1⟩
          rcases List.mem_cons.mp hd with rfl | hd
          · exact hb
          · exact Nat.lt_trans hb (hlt d hd)
      · split
        · rename_i hb
          subst hb
          split
          · exact hp
          · exact List.pairwise_cons.mpr ⟨hlt, hp⟩
        · rename_i hb hne
          refine List.pairwise_cons.mpr ⟨fun d hd => ?_, ih htail⟩
          rcases mem_slotUpdate htail hd with ⟨rfl, -⟩ | ⟨hd, -⟩
          · show b < t
            omega
          · exact hlt d hd
  · rcases mem_slotUpdate hm hc with ⟨rfl, hv⟩ | ⟨hc, -⟩
    · exact hv
    · exact hm.2 c hc

/-- Updating a slot twice with the same contents is updating it once (20_memory.md R64). -/
theorem slotUpdate_idem {m : SlotMemory} (hm : Memory.wf m) (t : Nat) (v : BitVec 256) :
    slotUpdate (slotUpdate m t v) t v = slotUpdate m t v := by
  induction m with
  | nil => by_cases hv : v = 0#256 <;> simp [slotUpdate, hv]
  | cons c m ih =>
    obtain ⟨b, x⟩ := c
    have hlt : ∀ d ∈ m, b < d.1 := (List.pairwise_cons.mp hm.1).1
    have htail : Memory.wf m := ⟨(List.pairwise_cons.mp hm.1).2, fun d hd => hm.2 d (by simp [hd])⟩
    by_cases h1 : t < b
    · by_cases hv : v = 0#256 <;> simp [slotUpdate, h1, hv]
    · by_cases h2 : t = b
      · subst h2
        by_cases hv : v = 0#256
        · simp only [slotUpdate, hv, Nat.lt_irrefl, if_false, if_true]
          cases m with
          | nil => simp [slotUpdate]
          | cons d m => simp [slotUpdate, hlt d (by simp)]
        · simp [slotUpdate, hv]
      · simp only [slotUpdate, h1, h2, if_false, ih htail]

end Sys2Proof.Machine
end

