-- ==== Sys2Proof/Laws/Status.lean ====
section
/-! SUPPORT. The fields of STATUS after each write of it (10_state.md R36 to R43). -/

namespace Sys2Proof.Machine

/-- A field write replaces its own bits and keeps every other bit. -/
theorem getLsbD_setField (v : BitVec 16) (lo : Nat) {w : Nat} (x : BitVec w) {j : Nat} (hj : j < 16) :
    (setField v lo x).getLsbD j = if lo ≤ j ∧ j < lo + w then x.getLsbD (j - lo) else v.getLsbD j := by
  have hjl : j - lo < 16 := by omega
  simp only [setField, BitVec.getLsbD_or, BitVec.getLsbD_and, BitVec.getLsbD_not, BitVec.getLsbD_shiftLeft,
    BitVec.getLsbD_setWidth, BitVec.getLsbD_allOnes, hj, hjl, decide_true, Bool.true_and]
  by_cases h1 : lo ≤ j
  · have h1' : ¬ j < lo := by omega
    by_cases h2 : j < lo + w
    · have : j - lo < w := by omega
      simp [h1, h1', h2, this]
    · have : ¬ j - lo < w := by omega
      have hx : x.getLsbD (j - lo) = false := BitVec.getLsbD_of_ge _ _ (by omega)
      simp [h1', h2, this, hx]
  · have h1' : j < lo := by omega
    simp [h1, h1']

/-- A field reads as what was last written to it. -/
theorem extract_setField_same (v : BitVec 16) (lo : Nat) {w : Nat} (x : BitVec w) (h : lo + w ≤ 16) :
    (setField v lo x).extractLsb' lo w = x := by
  refine BitVec.eq_of_getLsbD_eq fun j hj => ?_
  rw [BitVec.getLsbD_extractLsb', getLsbD_setField _ _ _ (by omega), if_pos ⟨by omega, by omega⟩]
  simp [hj]

/-- A field is not touched by a write of another one. -/
theorem extract_setField_other (v : BitVec 16) (lo : Nat) {w : Nat} (x : BitVec w) {lo' w' : Nat}
    (h : lo' + w' ≤ 16) (hd : lo' + w' ≤ lo ∨ lo + w ≤ lo') :
    (setField v lo x).extractLsb' lo' w' = v.extractLsb' lo' w' := by
  refine BitVec.eq_of_getLsbD_eq fun j hj => ?_
  rw [BitVec.getLsbD_extractLsb', BitVec.getLsbD_extractLsb', getLsbD_setField _ _ _ (by omega), if_neg (by omega)]

theorem getLsbD_setField_other (v : BitVec 16) (lo : Nat) {w : Nat} (x : BitVec w) {j : Nat}
    (hj : j < 16) (hd : j < lo ∨ lo + w ≤ j) : (setField v lo x).getLsbD j = v.getLsbD j := by
  rw [getLsbD_setField _ _ _ hj, if_neg (by omega)]

theorem getLsbD_setField_bit (v : BitVec 16) (lo : Nat) (x : Bool) (h : lo < 16) :
    (setField v lo (BitVec.ofBool x)).getLsbD lo = x := by
  rw [getLsbD_setField _ _ _ h, if_pos ⟨by omega, by omega⟩]
  simp

section
variable (e : ErrCode) (v : BitVec 16)

@[simp] theorem endStatus_busy : statusBusy (endStatus e v) = false := by
  simp only [statusBusy, endStatus]
  rw [getLsbD_setField _ _ _ (by omega), if_pos ⟨by omega, by omega⟩]
  simp

@[simp] theorem endStatus_err : statusErr (endStatus e v) = errBits e := by
  simp only [statusErr, endStatus]
  rw [extract_setField_other _ _ _ (by omega) (by omega), extract_setField_same _ _ _ (by omega)]

@[simp] theorem endStatus_bit : statusBit (endStatus e v) = statusBit v := by
  simp only [statusBit, endStatus]
  rw [getLsbD_setField_other _ _ _ (by omega) (by omega), getLsbD_setField_other _ _ _ (by omega) (by omega)]

@[simp] theorem endStatus_tri : statusTri (endStatus e v) = statusTri v := by
  simp only [statusTri, endStatus]
  rw [extract_setField_other _ _ _ (by omega) (by omega), extract_setField_other _ _ _ (by omega) (by omega)]

@[simp] theorem endStatus_dis : statusDis (endStatus e v) = statusDis v := by
  simp only [statusDis, endStatus]
  rw [getLsbD_setField_other _ _ _ (by omega) (by omega), getLsbD_setField_other _ _ _ (by omega) (by omega)]

@[simp] theorem endStatus_all : statusAll (endStatus e v) = statusAll v := by
  simp only [statusAll, endStatus]
  rw [getLsbD_setField_other _ _ _ (by omega) (by omega), getLsbD_setField_other _ _ _ (by omega) (by omega)]

@[simp] theorem endStatus_any : statusAny (endStatus e v) = statusAny v := by
  simp only [statusAny, endStatus]
  rw [getLsbD_setField_other _ _ _ (by omega) (by omega), getLsbD_setField_other _ _ _ (by omega) (by omega)]

@[simp] theorem endStatus_reserved : statusReserved (endStatus e v) = statusReserved v := by
  simp only [statusReserved, endStatus]
  rw [extract_setField_other _ _ _ (by omega) (by omega), extract_setField_other _ _ _ (by omega) (by omega)]
end

/-- What each write of a field leaves in the field itself and in the others, for the result fields. -/
theorem setField_bit_fields (v : BitVec 16) (x : Bool) :
    statusBit (setField v 4 (BitVec.ofBool x)) = x ∧ statusTri (setField v 4 (BitVec.ofBool x)) = statusTri v ∧
    statusDis (setField v 4 (BitVec.ofBool x)) = statusDis v ∧ statusAll (setField v 4 (BitVec.ofBool x)) = statusAll v ∧
    statusAny (setField v 4 (BitVec.ofBool x)) = statusAny v ∧
    statusReserved (setField v 4 (BitVec.ofBool x)) = statusReserved v :=
  ⟨getLsbD_setField_bit _ _ _ (by omega), extract_setField_other _ _ _ (by omega) (by omega),
    getLsbD_setField_other _ _ _ (by omega) (by omega), getLsbD_setField_other _ _ _ (by omega) (by omega),
    getLsbD_setField_other _ _ _ (by omega) (by omega), extract_setField_other _ _ _ (by omega) (by omega)⟩

theorem setField_tri_fields (v : BitVec 16) (x : BitVec 2) :
    statusBit (setField v 5 x) = statusBit v ∧ statusTri (setField v 5 x) = x ∧
    statusDis (setField v 5 x) = statusDis v ∧ statusAll (setField v 5 x) = statusAll v ∧
    statusAny (setField v 5 x) = statusAny v ∧ statusReserved (setField v 5 x) = statusReserved v :=
  ⟨getLsbD_setField_other _ _ _ (by omega) (by omega), extract_setField_same _ _ _ (by omega),
    getLsbD_setField_other _ _ _ (by omega) (by omega), getLsbD_setField_other _ _ _ (by omega) (by omega),
    getLsbD_setField_other _ _ _ (by omega) (by omega), extract_setField_other _ _ _ (by omega) (by omega)⟩

theorem setField_dis_fields (v : BitVec 16) (x : Bool) :
    statusBit (setField v 7 (BitVec.ofBool x)) = statusBit v ∧ statusTri (setField v 7 (BitVec.ofBool x)) = statusTri v ∧
    statusDis (setField v 7 (BitVec.ofBool x)) = x ∧ statusAll (setField v 7 (BitVec.ofBool x)) = statusAll v ∧
    statusAny (setField v 7 (BitVec.ofBool x)) = statusAny v ∧
    statusReserved (setField v 7 (BitVec.ofBool x)) = statusReserved v :=
  ⟨getLsbD_setField_other _ _ _ (by omega) (by omega), extract_setField_other _ _ _ (by omega) (by omega),
    getLsbD_setField_bit _ _ _ (by omega), getLsbD_setField_other _ _ _ (by omega) (by omega),
    getLsbD_setField_other _ _ _ (by omega) (by omega), extract_setField_other _ _ _ (by omega) (by omega)⟩

/-- Writing ALL and ANY keeps every other field. -/
theorem reductionStatus_fields (acc : Acc) (v : BitVec 16) :
    statusBit (reductionStatus acc v) = statusBit v ∧ statusTri (reductionStatus acc v) = statusTri v ∧
    statusDis (reductionStatus acc v) = statusDis v ∧ statusAll (reductionStatus acc v) = acc.all ∧
    statusAny (reductionStatus acc v) = acc.any ∧ statusReserved (reductionStatus acc v) = statusReserved v := by
  refine ⟨?_, ?_, ?_, ?_, ?_, ?_⟩
  · exact (getLsbD_setField_other _ _ _ (by omega) (by omega)).trans (getLsbD_setField_other _ _ _ (by omega) (by omega))
  · exact (extract_setField_other _ _ _ (by omega) (by omega)).trans (extract_setField_other _ _ _ (by omega) (by omega))
  · exact (getLsbD_setField_other _ _ _ (by omega) (by omega)).trans (getLsbD_setField_other _ _ _ (by omega) (by omega))
  · exact (getLsbD_setField_other _ _ _ (by omega) (by omega)).trans (getLsbD_setField_bit _ _ _ (by omega))
  · exact getLsbD_setField_bit _ _ _ (by omega)
  · exact (extract_setField_other _ _ _ (by omega) (by omega)).trans (extract_setField_other _ _ _ (by omega) (by omega))

/-- STATUS after a GET that completes (40_container.md R110). -/
theorem getStatus_fields (x : Bool) (v : BitVec 16) :
    statusBusy (getStatus x v) = false ∧ statusErr (getStatus x v) = 0#3 ∧ statusBit (getStatus x v) = x ∧
    statusTri (getStatus x v) = statusTri v ∧ statusDis (getStatus x v) = statusDis v ∧
    statusAll (getStatus x v) = statusAll v ∧ statusAny (getStatus x v) = statusAny v ∧
    statusReserved (getStatus x v) = statusReserved v := by
  obtain ⟨h1, h2, h3, h4, h5, h6⟩ := setField_bit_fields v x
  simp [getStatus, errBits, h1, h2, h3, h4, h5, h6]

/-- STATUS after a READ that completes (41_multitarget.md R140). -/
theorem readStatus_fields (acc : Acc) (v : BitVec 16) :
    statusBusy (readStatus acc v) = false ∧ statusErr (readStatus acc v) = 0#3 ∧
    statusBit (readStatus acc v) = statusBit v ∧ statusTri (readStatus acc v) = triBits (accTri acc) ∧
    statusDis (readStatus acc v) = statusDis v ∧ statusAll (readStatus acc v) = acc.all ∧
    statusAny (readStatus acc v) = acc.any ∧ statusReserved (readStatus acc v) = statusReserved v := by
  obtain ⟨h1, h2, h3, -, -, h6⟩ := setField_tri_fields v (triBits (accTri acc))
  obtain ⟨g1, g2, g3, g4, g5, g6⟩ := reductionStatus_fields acc (setField v 5 (triBits (accTri acc)))
  simp [readStatus, errBits, h1, h2, h3, h6, g1, g2, g3, g4, g5, g6]

/-- STATUS after a HASDIS that completes (41_multitarget.md R141). -/
theorem hasdisStatus_fields (acc : Acc) (v : BitVec 16) :
    statusBusy (hasdisStatus acc v) = false ∧ statusErr (hasdisStatus acc v) = 0#3 ∧
    statusBit (hasdisStatus acc v) = statusBit v ∧ statusTri (hasdisStatus acc v) = statusTri v ∧
    statusDis (hasdisStatus acc v) = accDis acc ∧ statusAll (hasdisStatus acc v) = acc.all ∧
    statusAny (hasdisStatus acc v) = acc.any ∧ statusReserved (hasdisStatus acc v) = statusReserved v := by
  obtain ⟨h1, h2, h3, -, -, h6⟩ := setField_dis_fields v (accDis acc)
  obtain ⟨g1, g2, g3, g4, g5, g6⟩ := reductionStatus_fields acc (setField v 7 (BitVec.ofBool (accDis acc)))
  simp [hasdisStatus, errBits, h1, h2, h3, h6, g1, g2, g3, g4, g5, g6]

/-- STATUS as a command start writes it (10_state.md R43). -/
theorem startStatus_fields :
    statusBusy startStatus = true ∧ statusErr startStatus = 0#3 ∧ statusBit startStatus = false ∧
    statusTri startStatus = 0#2 ∧ statusDis startStatus = false ∧ statusAll startStatus = false ∧
    statusAny startStatus = false ∧ statusReserved startStatus = 0#6 := by decide

end Sys2Proof.Machine
end

