-- ==== Sys2Proof/Laws/Ops.lean ====
section
/-! SUPPORT. For each shared operation, one lemma that says everything it can do. -/

namespace Sys2Proof.Machine

/-! ### Slots -/

theorem setWidth_bits_256 (w : Width) (x : BitVec 256) (j : Nat) :
    ((x.setWidth w.bits).setWidth 256).getLsbD j = (decide (j < w.bits) && x.getLsbD j) := by
  have := bits_le w
  simp only [BitVec.getLsbD_setWidth]
  by_cases h : j < w.bits
  · have : j < 256 := by omega
    simp [h, this]
  · simp [h]

/-- MemRead bit by bit (20_memory.md R62). -/
theorem getLsbD_memRead (w : Width) (t : BitVec 8) (s : State) (j : Nat) :
    (memRead w t s).getLsbD j = (decide (j < w.bits) && (slotLookup s.slots t.toNat).getLsbD j) := by
  simp only [memRead, BitVec.getLsbD_setWidth]

/-- A slot that has just been written reads as the container written (20_memory.md R63). -/
theorem slotLookup_withSlot_same {s : State} (hs : Memory.wf s.slots) (t : BitVec 8) {w : Width} (v : BitVec w.bits) :
    slotLookup (s.withSlot t v).slots t.toNat = v.setWidth 256 := by
  rw [withSlot_slots, slotLookup_update_same hs]

theorem memRead_withSlot_same {s : State} (hs : Memory.wf s.slots) (t : BitVec 8) {w : Width} (v : BitVec w.bits) :
    memRead w t (s.withSlot t v) = v := by
  rw [memRead, slotLookup_withSlot_same hs, setWidth_setWidth_bits]

/-- Two states with the same slots read the same (20_memory.md R62). -/
theorem memRead_congr {s s' : State} (h : s'.slots = s.slots) (w : Width) (t : BitVec 8) :
    memRead w t s' = memRead w t s := by rw [memRead, memRead, h]

/-- MemWrite, both answers (20_memory.md R63). -/
theorem memWrite_cases (w : Width) (t : BitVec 8) (v : BitVec w.bits) (s : State) :
    (storeAnswer t s = true ∧ memWrite w t v s = (s.afterDraw.withSlot t v, true)) ∨
    (storeAnswer t s = false ∧ memWrite w t v s = (s.afterDraw, false)) := by
  unfold memWrite
  split
  · rename_i h; exact .inl ⟨h, rfl⟩
  · rename_i h; exact .inr ⟨by simpa using h, rfl⟩

/-- The store of one entry, both answers (41_multitarget.md R148). -/
theorem storeEntry_cases (w : Width) (i : Nat) (t : BitVec 8) (v : BitVec w.bits) (s : State) :
    (storeAnswer t s = true ∧ storeEntry w i t v s =
      { s with slots := slotUpdate s.slots t.toNat (v.setWidth 256), wok := s.wok ||| 1#64 <<< i,
               answers := s.answers.tail, draws := s.draws + 1 }) ∨
    (storeAnswer t s = false ∧ storeEntry w i t v s =
      { s with wfail := s.wfail ||| 1#64 <<< i, answers := s.answers.tail, draws := s.draws + 1 }) := by
  rcases memWrite_cases w t v s with ⟨h, e⟩ | ⟨h, e⟩
  · exact .inl ⟨h, by rw [storeEntry, e]; rfl⟩
  · exact .inr ⟨h, by rw [storeEntry, e]; rfl⟩

/-! ### Checks -/

/-- The container check passes exactly on a matching tag and a legal index (40_container.md R106). -/
theorem containerCheck_eq_none {w : Width} {b : Nat} {snap : Snapshot} :
    containerCheck w b snap = none ↔ snap.cinTag = wcOf w ∧ b < w.bits := by
  unfold containerCheck
  split
  · simp_all
  · split <;> simp_all

/-- The view check passes exactly on a legal view (41_multitarget.md R131). -/
theorem viewCheck_eq_none {cfg : Config} {w : Width} {n b : Nat} {snap : Snapshot} :
    viewCheck cfg w n b snap = none ↔
      n ≠ 0 ∧ b < w.bits ∧ ∀ t ∈ snap.handles, cfg.slotCap t.toNat = some w := by
  unfold viewCheck
  constructor
  · intro h
    split at h
    · simp at h
    · split at h
      · simp at h
      · split at h
        · simp at h
        · split at h
          · simp at h
          · rename_i h1 h2 h3 h4
            refine ⟨h2, by omega, fun t ht => ?_⟩
            simp only [List.any_eq_true, decide_eq_true_eq, not_exists, not_and] at h3
            exact not_not.mp (h3 t ht)
  · rintro ⟨hn, hb, hc⟩
    have h1 : ¬ (snap.handles.any (fun t => decide (cfg.nslot ≤ t.toNat)) = true) := by
      simp only [List.any_eq_true, decide_eq_true_eq, not_exists, not_and, not_le]
      intro t ht
      have := hc t ht
      exact (List.getElem?_eq_some_iff.mp this).1
    have h3 : ¬ (snap.handles.any (fun t => decide (cfg.slotCap t.toNat ≠ some w)) = true) := by
      simp only [List.any_eq_true, decide_eq_true_eq, not_exists, not_and, not_not]
      exact hc
    rw [if_neg h1, if_neg hn, if_neg h3, if_neg (by omega)]

/-! ### What each instruction's unit step can do -/

/-- GET and SET (41_multitarget.md R151): an error, or the step's own effect, always to an idle unit. -/
theorem containerStep_next {w : Width} {b : BitVec 16} {s t : State} {f : BitVec w.bits → State}
    (h : containerStep w b s f = .next t) :
    ∃ r, s.unit = .run r ∧ r.ph = .check ∧
      ((∃ e, containerCheck w b.toNat r.snap = some e ∧ t = raiseError e s) ∨
        (containerCheck w b.toNat r.snap = none ∧ t = f (containerOperand w r.snap))) := by
  unfold containerStep onRun at h
  split at h
  · cases h
  · rename_i r hr
    refine ⟨r, hr, ?_⟩
    dsimp only at h
    split at h
    · rename_i hp
      refine ⟨hp, ?_⟩
      split at h
      · rename_i e he
        injection h with h
        exact .inl ⟨e, he, h.symm⟩
      · rename_i he
        injection h with h
        exact .inr ⟨he, h.symm⟩
    · cases h

/-- The Check step of a view command: an error, or on to Load at entry 0. -/
theorem viewCheckStep_next {w : Width} {n : BitVec 6} {b : BitVec 16} {r : RunState} {s t : State}
    (h : viewCheckStep w n b r s = .next t) :
    (∃ e, viewCheck s.cfg w n.toNat b.toNat r.snap = some e ∧ t = raiseError e s) ∨
      (viewCheck s.cfg w n.toNat b.toNat r.snap = none ∧ t = s.withRun { r with ph := .load, i := 0 }) := by
  unfold viewCheckStep at h
  split at h
  · rename_i e he
    injection h with h
    exact .inl ⟨e, he, h.symm⟩
  · rename_i he
    injection h with h
    exact .inr ⟨he, h.symm⟩

/-- READ and HASDIS by phase (41_multitarget.md R151). -/
theorem consensusStep_next {w : Width} {n : BitVec 6} {b : BitVec 16} {s t : State} {fin : Acc → BitVec 16 → BitVec 16}
    (h : consensusStep w n b s fin = .next t) :
    ∃ r, s.unit = .run r ∧
      ((r.ph = .check ∧ ∃ e, viewCheck s.cfg w n.toNat b.toNat r.snap = some e ∧ t = raiseError e s) ∨
       (r.ph = .check ∧ viewCheck s.cfg w n.toNat b.toNat r.snap = none ∧
          t = s.withRun { r with ph := .load, i := 0 }) ∨
       (r.ph = .load ∧ ∃ a, r.snap.handles[r.i]? = some a ∧
          ∃ x, x = accStep r.i r.acc (bitGet w (memRead w a s) b.toNat) ∧
          t = s.withRun { r with
            i := r.i + 1, acc := x, ph := if r.i + 1 = n.toNat ∨ accDis x = true then .finish else .load }) ∨
       (r.ph = .finish ∧ t = s.finishWith (fin r.acc s.status))) := by
  unfold consensusStep onRun at h
  split at h
  · cases h
  · rename_i r hr
    refine ⟨r, hr, ?_⟩
    dsimp only at h
    split at h
    · rename_i hp
      rcases viewCheckStep_next h with h | h
      · exact .inl ⟨hp, h⟩
      · exact .inr (.inl ⟨hp, h⟩)
    · rename_i hp
      unfold consensusLoad at h
      split at h
      · cases h
      · rename_i a ha
        injection h with h
        exact .inr (.inr (.inl ⟨hp, a, ha, _, rfl, h.symm⟩))
    · cases h
    · rename_i hp
      injection h with h
      exact .inr (.inr (.inr ⟨hp, h.symm⟩))

/-- WRITEALL by phase (41_multitarget.md R152). -/
theorem writeallStep_next {w : Width} {n : BitVec 6} {b : BitVec 16} {v : Bool} {s t : State}
    (h : writeallStep w n b v s = .next t) :
    ∃ r, s.unit = .run r ∧
      ((r.ph = .check ∧ ∃ e, viewCheck s.cfg w n.toNat b.toNat r.snap = some e ∧ t = raiseError e s) ∨
       (r.ph = .check ∧ viewCheck s.cfg w n.toNat b.toNat r.snap = none ∧
          t = s.withRun { r with ph := .load, i := 0 }) ∨
       (r.ph = .load ∧ ∃ a, r.snap.handles[r.i]? = some a ∧
          t = s.withRun { r with tmp := (memRead w a s).setWidth 256, ph := .store }) ∨
       (r.ph = .store ∧ ∃ a, r.snap.handles[r.i]? = some a ∧
          t = (storeEntry w r.i a (bitSet w (r.tmp.setWidth w.bits) b.toNat v) s).withRun
            { r with i := r.i + 1, ph := if r.i + 1 < n.toNat then .load else .finish }) ∨
       (r.ph = .finish ∧ t = raiseError (writeallErr s.wfail) s)) := by
  unfold writeallStep onRun at h
  split at h
  · cases h
  · rename_i r hr
    refine ⟨r, hr, ?_⟩
    dsimp only at h
    split at h
    · rename_i hp
      rcases viewCheckStep_next h with h | h
      · exact .inl ⟨hp, h⟩
      · exact .inr (.inl ⟨hp, h⟩)
    · rename_i hp
      unfold writeallLoad at h
      split at h
      · cases h
      · rename_i a ha
        injection h with h
        exact .inr (.inr (.inl ⟨hp, a, ha, h.symm⟩))
    · rename_i hp
      unfold writeallStore at h
      split at h
      · cases h
      · rename_i a ha
        injection h with h
        exact .inr (.inr (.inr (.inl ⟨hp, a, ha, h.symm⟩)))
    · rename_i hp
      injection h with h
      exact .inr (.inr (.inr (.inr ⟨hp, h.symm⟩)))

end Sys2Proof.Machine
end

