-- ==== Sys2Proof/Laws/Exec.lean ====
section
/-! SUPPORT. One inversion lemma per instruction: if its unit step answers a next state, which one. -/

namespace Sys2Proof.Machine

/-- GET (40_container.md R110). -/
theorem execGet_next {w : Width} {b : BitVec 16} {s t : State} (h : exec (.get w b) s = .next t) :
    ∃ r, s.unit = .run r ∧ r.ph = .check ∧
      ((∃ e, containerCheck w b.toNat r.snap = some e ∧ t = raiseError e s) ∨
        (containerCheck w b.toNat r.snap = none ∧
          t = s.finishWith (getStatus (bitGet w (containerOperand w r.snap) b.toNat) s.status))) :=
  containerStep_next (f := fun c => s.finishWith (getStatus (bitGet w c b.toNat) s.status)) h

/-- SET (40_container.md R111). -/
theorem execSet_next {w : Width} {b : BitVec 16} {v : Bool} {s t : State} (h : exec (.set w b v) s = .next t) :
    ∃ r, s.unit = .run r ∧ r.ph = .check ∧
      ((∃ e, containerCheck w b.toNat r.snap = some e ∧ t = raiseError e s) ∨
        (containerCheck w b.toNat r.snap = none ∧
          t = (s.withCout (wcOf w) ((bitSet w (containerOperand w r.snap) b.toNat v).setWidth 256)).finishWith
            (endStatus .ok s.status))) :=
  containerStep_next (f := fun c =>
    (s.withCout (wcOf w) ((bitSet w c b.toNat v).setWidth 256)).finishWith (endStatus .ok s.status)) h

/-- READ (41_multitarget.md R140, R151). -/
theorem execRead_next {w : Width} {n : BitVec 6} {b : BitVec 16} {s t : State} (h : exec (.read w n b) s = .next t) :
    ∃ r, s.unit = .run r ∧
      ((r.ph = .check ∧ ∃ e, viewCheck s.cfg w n.toNat b.toNat r.snap = some e ∧ t = raiseError e s) ∨
       (r.ph = .check ∧ viewCheck s.cfg w n.toNat b.toNat r.snap = none ∧
          t = s.withRun { r with ph := .load, i := 0 }) ∨
       (r.ph = .load ∧ ∃ a, r.snap.handles[r.i]? = some a ∧
          ∃ x, x = accStep r.i r.acc (bitGet w (memRead w a s) b.toNat) ∧
          t = s.withRun { r with
            i := r.i + 1, acc := x, ph := if r.i + 1 = n.toNat ∨ accDis x = true then .finish else .load }) ∨
       (r.ph = .finish ∧ t = s.finishWith (readStatus r.acc s.status))) :=
  consensusStep_next h

/-- HASDIS (41_multitarget.md R141, R151). -/
theorem execHasdis_next {w : Width} {n : BitVec 6} {b : BitVec 16} {s t : State}
    (h : exec (.hasdis w n b) s = .next t) :
    ∃ r, s.unit = .run r ∧
      ((r.ph = .check ∧ ∃ e, viewCheck s.cfg w n.toNat b.toNat r.snap = some e ∧ t = raiseError e s) ∨
       (r.ph = .check ∧ viewCheck s.cfg w n.toNat b.toNat r.snap = none ∧
          t = s.withRun { r with ph := .load, i := 0 }) ∨
       (r.ph = .load ∧ ∃ a, r.snap.handles[r.i]? = some a ∧
          ∃ x, x = accStep r.i r.acc (bitGet w (memRead w a s) b.toNat) ∧
          t = s.withRun { r with
            i := r.i + 1, acc := x, ph := if r.i + 1 = n.toNat ∨ accDis x = true then .finish else .load }) ∨
       (r.ph = .finish ∧ t = s.finishWith (hasdisStatus r.acc s.status))) :=
  consensusStep_next h

/-- WRITEALL (41_multitarget.md R145, R152). -/
theorem execWriteall_next {w : Width} {n : BitVec 6} {b : BitVec 16} {v : Bool} {s t : State}
    (h : exec (.writeall w n b v) s = .next t) :
    ∃ r, s.unit = .run r ∧
      ((r.ph = .check ∧ ∃ e, viewCheck s.cfg w n.toNat b.toNat r.snap = some e ∧ t = raiseError e s) ∨
       (r.ph = .check ∧ viewCheck s.cfg w n.toNat b.toNat r.snap = none ∧
          t = s.withRun { r with ph := .load, i := 0 }) ∨
       (r.ph = .load ∧ ∃ a, r.snap.handles[r.i]? = some a ∧
          t = s.withRun { r with tmp := (memRead w a s).setWidth 256, ph := .store }) ∨
       (r.ph = .store ∧ ∃ a, r.snap.handles[r.i]? = some a ∧
          t = (storeEntry w r.i a (bitSet w (r.tmp.setWidth w.bits) b.toNat v) s).withRun
            { r with i := r.i + 1, ph := if r.i + 1 < n.toNat then .load else .finish }) ∨
       (r.ph = .finish ∧ t = raiseError (writeallErr s.wfail) s)) :=
  writeallStep_next h

/-- GET and SET in their Check step, forwards (41_multitarget.md R151). -/
theorem containerStep_run {w : Width} {b : BitVec 16} {s : State} {r : RunState} {f : BitVec w.bits → State}
    (hu : s.unit = .run r) (hp : r.ph = .check) :
    containerStep w b s f = match containerCheck w b.toNat r.snap with
      | some e => .next (raiseError e s)
      | none => .next (f (containerOperand w r.snap)) := by
  cases h : containerCheck w b.toNat r.snap <;> simp only [containerStep, onRun, hu, hp, h]

/-- The four words of COUT put together again are the value written (10_state.md R34, 20_memory.md R65). -/
theorem coutValue_withCout (s : State) (tag : BitVec 3) (v : BitVec 256) : coutValue (s.withCout tag v) = v := by
  refine BitVec.eq_of_getLsbD_eq fun j hj => ?_
  simp only [coutValue, State.withCout, BitVec.getLsbD_append, BitVec.getLsbD_extractLsb']
  by_cases h0 : j < 64
  · simp [h0]
  · by_cases h1 : j < 128
    · have a : j - 64 < 64 := by omega
      have e : 64 + (j - 64) = j := by omega
      simp [h0, a, e]
    · by_cases h2 : j < 192
      · have a : ¬ j - 64 < 64 := by omega
        have b : j - 64 - 64 < 64 := by omega
        have e : 128 + (j - 64 - 64) = j := by omega
        simp [h0, a, b, e]
      · have a : ¬ j - 64 < 64 := by omega
        have b : ¬ j - 64 - 64 < 64 := by omega
        have c : j - 64 - 64 - 64 < 64 := by omega
        have e : 192 + (j - 64 - 64 - 64) = j := by omega
        simp [h0, a, b, c, e]

end Sys2Proof.Machine
end

