-- ==== Sys2Proof/Laws/PerInstr.lean ====
section
/-! SUPPORT. The per-instruction family: what the word of each command looks like, field by field. -/

namespace Sys2Proof.Laws.EncodedFields

/-- The command's OP, WC, V, NT and IDX stand in its word where 30_encoding.md R80 puts them, an unused field is 0
(R87), and RSV is 0 (R85). -/
def Statement (i : Instr) : Prop :=
  rsvField (encode i) = 0#2 ∧
  match i with
  | .get w b => opField (encode i) = 0x1#4 ∧ widthOf (wcField (encode i)) = some w ∧ vField (encode i) = 0#1 ∧
      ntField (encode i) = 0#6 ∧ idxField (encode i) = b
  | .set w b v => opField (encode i) = 0x2#4 ∧ widthOf (wcField (encode i)) = some w ∧
      vField (encode i) = BitVec.ofBool v ∧ ntField (encode i) = 0#6 ∧ idxField (encode i) = b
  | .read w n b => opField (encode i) = 0x3#4 ∧ widthOf (wcField (encode i)) = some w ∧ vField (encode i) = 0#1 ∧
      ntField (encode i) = n ∧ idxField (encode i) = b
  | .hasdis w n b => opField (encode i) = 0x4#4 ∧ widthOf (wcField (encode i)) = some w ∧ vField (encode i) = 0#1 ∧
      ntField (encode i) = n ∧ idxField (encode i) = b
  | .writeall w n b v => opField (encode i) = 0x5#4 ∧ widthOf (wcField (encode i)) = some w ∧
      vField (encode i) = BitVec.ofBool v ∧ ntField (encode i) = n ∧ idxField (encode i) = b

theorem get (w : Width) (b : BitVec 16) : Statement (.get w b) := by
  obtain ⟨h1, h2, h3, h4, h5, h6⟩ := fields_of_encodeFields 0x1#4 (wcOf w) 0#1 0#6 b
  exact ⟨h5, h1, by rw [encode, h2, widthOf_wcOf], h3, h4, h6⟩

theorem set (w : Width) (b : BitVec 16) (v : Bool) : Statement (.set w b v) := by
  obtain ⟨h1, h2, h3, h4, h5, h6⟩ := fields_of_encodeFields 0x2#4 (wcOf w) (BitVec.ofBool v) 0#6 b
  exact ⟨h5, h1, by rw [encode, h2, widthOf_wcOf], h3, h4, h6⟩

theorem read (w : Width) (n : BitVec 6) (b : BitVec 16) : Statement (.read w n b) := by
  obtain ⟨h1, h2, h3, h4, h5, h6⟩ := fields_of_encodeFields 0x3#4 (wcOf w) 0#1 n b
  exact ⟨h5, h1, by rw [encode, h2, widthOf_wcOf], h3, h4, h6⟩

theorem hasdis (w : Width) (n : BitVec 6) (b : BitVec 16) : Statement (.hasdis w n b) := by
  obtain ⟨h1, h2, h3, h4, h5, h6⟩ := fields_of_encodeFields 0x4#4 (wcOf w) 0#1 n b
  exact ⟨h5, h1, by rw [encode, h2, widthOf_wcOf], h3, h4, h6⟩

theorem writeall (w : Width) (n : BitVec 6) (b : BitVec 16) (v : Bool) : Statement (.writeall w n b v) := by
  obtain ⟨h1, h2, h3, h4, h5, h6⟩ := fields_of_encodeFields 0x5#4 (wcOf w) (BitVec.ofBool v) n b
  exact ⟨h5, h1, by rw [encode, h2, widthOf_wcOf], h3, h4, h6⟩

end Sys2Proof.Laws.EncodedFields
end

