-- ==== Sys2Proof/Laws/Reduction.lean ====
section
/-! SUPPORT. The consensus reductions over the targets' bits (41_multitarget.md R135 to R139). -/

namespace Sys2Proof.Machine

/-- Loading one more entry extends the reduction by its bit (41_multitarget.md R151). -/
theorem accOf_append (bs : List Bool) (x : Bool) : accOf (bs ++ [x]) = accStep bs.length (accOf bs) x := by
  cases bs with
  | nil => cases x <;> rfl
  | cons b bs => simp [accOf, accStep, Bool.and_assoc, Bool.or_assoc]

/-- At entry 0 the accumulators' old contents do not matter (41_multitarget.md R151). -/
theorem accStep_zero (acc acc' : Acc) (x : Bool) : accStep 0 acc x = accStep 0 acc' x := rfl

/-- `DIS = ANY ∧ ¬ALL` (41_multitarget.md R137). -/
theorem accDis_accOf (bs : List Bool) (h : bs ≠ []) : accDis (accOf bs) = (bs.any id && !bs.all id) := by
  cases bs with
  | nil => exact absurd rfl h
  | cons b bs =>
    simp only [accDis, accOf, List.any_cons, List.all_cons, id]
    cases b <;> cases bs.any id <;> cases bs.all id <;> rfl

/-- The XOR form of the disagreement is the accumulators' (41_multitarget.md R137). -/
theorem disOf_eq_accDis (bs : List Bool) (h : bs ≠ []) : disOf bs = accDis (accOf bs) := by
  cases bs with
  | nil => exact absurd rfl h
  | cons b0 bs =>
    clear h
    induction bs with
    | nil => cases b0 <;> rfl
    | cons b bs ih =>
      simp only [disOf, accDis, accOf, List.any_cons, List.all_cons, id] at ih ⊢
      rw [ih]
      cases b0 <;> cases b <;> cases bs.any id <;> cases bs.all id <;> rfl

/-- The tri-state of the list and of the accumulators agree (41_multitarget.md R138). -/
theorem triOf_eq_accTri (bs : List Bool) (h : bs ≠ []) : triOf bs = accTri (accOf bs) := by
  simp only [triOf, accTri, disOf_eq_accDis bs h]
  rfl

/-- Once two entries disagree, the entries not loaded change nothing (41_multitarget.md R139): DIS, ALL, ANY. -/
theorem accOf_of_disagreeing_part (bs cs : List Bool) (hne : bs ≠ []) (h : accDis (accOf bs) = true) :
    (accOf (bs ++ cs)).all = (accOf bs).all ∧ (accOf (bs ++ cs)).any = (accOf bs).any ∧
    accDis (accOf (bs ++ cs)) = true := by
  rw [accDis_accOf bs hne] at h
  rw [accDis_accOf (bs ++ cs) (by simp [hne])]
  simp only [accOf, List.all_append, List.any_append]
  cases h1 : bs.all id <;> cases h2 : bs.any id <;> simp [h1, h2] at h ⊢

end Sys2Proof.Machine
end

