-- ==== Sys2Proof/Laws/Step.lean ====
section
/-! SUPPORT. What one step is, by the pending turns and by the unit. -/

namespace Sys2Proof.Machine

/-- With no turn pending the unit moves. -/
theorem step_of_no_turns {s : State} (h : s.turns = []) : step s = unitStep s := by
  simp [step, nextTurn, h]

/-- A pending turn is taken off the list and done. -/
theorem step_of_turn {s : State} {t : Turn} {rest : List Turn} (h : s.turns = t :: rest) :
    step s = takeTurn t (s.withTurns rest) := by
  simp [step, nextTurn, h]

/-- An idle unit does nothing (60_exceptions.md R187). -/
theorem unitStep_of_idle {s : State} (h : s.unit = .idle) : unitStep s = .next s := by
  simp [unitStep, h]

/-- A unit that runs a decoded command steps it (41_multitarget.md R151). -/
theorem unitStep_of_command {s : State} {r : RunState} {i : Instr} (h : s.unit = .run r)
    (hd : r.snap.decoded = .command i) : unitStep s = exec i s := by
  simp [unitStep, h, hd]

/-- A word that does not decode raises IllegalCommand in its Check step (60_exceptions.md R175). -/
theorem unitStep_of_illegal {s : State} {r : RunState} {why : Illegal} (h : s.unit = .run r) (hp : r.ph = .check)
    (hd : r.snap.decoded = .illegal why) : unitStep s = .next (raiseError .illegalCommand s) := by
  simp [unitStep, h, hd, hp]

/-- What a unit step can do: nothing, IllegalCommand, or the instruction's own step. -/
theorem unitStep_next {s t : State} (h : unitStep s = .next t) :
    (s.unit = .idle ∧ t = s) ∨
    (∃ r, s.unit = .run r ∧
      ((∃ why, r.snap.decoded = .illegal why ∧ r.ph = .check ∧ t = raiseError .illegalCommand s) ∨
       (∃ i, r.snap.decoded = .command i ∧ exec i s = .next t))) := by
  unfold unitStep at h
  split at h
  · rename_i hu
    injection h with h
    exact .inl ⟨hu, h.symm⟩
  · rename_i r hu
    refine .inr ⟨r, hu, ?_⟩
    split at h
    · rename_i i hd
      exact .inr ⟨i, hd, h⟩
    · rename_i why hd
      split at h
      · rename_i hp
        injection h with h
        exact .inl ⟨why, hd, hp, h.symm⟩
      · cases h

/-- What a step can do, by the pending turns. -/
theorem step_next {s t : State} (h : step s = .next t) :
    (s.turns = [] ∧ unitStep s = .next t) ∨ (∃ x rest, s.turns = x :: rest ∧ takeTurn x (s.withTurns rest) = .next t) := by
  cases hs : s.turns with
  | nil => exact .inl ⟨rfl, by rw [← step_of_no_turns hs]; exact h⟩
  | cons x rest => exact .inr ⟨x, rest, rfl, by rw [← step_of_turn hs]; exact h⟩

/-- What a host slot access can do: it reaches an existing slot that no running view lists. -/
theorem hostSlot_next {a : BitVec 8} {s t : State} {f : Width → State} (h : hostSlot a s f = .next t) :
    ∃ w, s.cfg.slotCap a.toNat = some w ∧ runningViewLists a s = false ∧ t = f w := by
  unfold hostSlot at h
  split at h
  · cases h
  · rename_i w hw
    split at h
    · cases h
    · rename_i hl
      injection h with h
      exact ⟨w, hw, by simpa using hl, h.symm⟩

/-- Running one step more. -/
theorem run_succ (k : Nat) (s t : State) (h : step s = .next t) :
    Sys2Proof.core.run (k + 1) s = Sys2Proof.core.run k t := by
  have hc : Sys2Proof.core.step s = .next t := h
  simp only [Host.Core.run, hc]

/-- An idle machine with no turn pending stays where it is. -/
theorem run_idle (k : Nat) {s : State} (hu : s.unit = .idle) (ht : s.turns = []) :
    Sys2Proof.core.run k s = .next s := by
  induction k with
  | zero => rfl
  | succ k ih => rw [run_succ k s s (by rw [step_of_no_turns ht, unitStep_of_idle hu]), ih]

end Sys2Proof.Machine
end

