-- ==== Sys2Proof/Laws/Run.lean ====
section
/-! SUPPORT. Runs of several steps put together, and WRITEALL's loop as the atomic reference function has it. -/

namespace Sys2Proof.Machine

/-- A run of `a + b` steps is a run of `b` steps from where `a` steps lead. -/
theorem run_add (a b : Nat) (s t : State) (h : Sys2Proof.core.run a s = .next t) :
    Sys2Proof.core.run (a + b) s = Sys2Proof.core.run b t := by
  induction a generalizing s with
  | zero =>
    simp only [Host.Core.run] at h
    injection h with h
    rw [Nat.zero_add, h]
  | succ a ih =>
    simp only [Host.Core.run] at h
    cases hs : step s with
    | next u =>
      have hc : Sys2Proof.core.step s = .next u := hs
      rw [hc] at h
      rw [Nat.succ_add, run_succ _ _ _ hs]
      exact ih _ h
    | fault r =>
      have hc : Sys2Proof.core.step s = .fault r := hs
      rw [hc] at h
      cases h
    | refused r =>
      have hc : Sys2Proof.core.step s = .refused r := hs
      rw [hc] at h
      cases h

/-- A run that has come to rest stays there. -/
theorem run_to_idle {k m : Nat} {s t : State} (h : Sys2Proof.core.run k s = .next t) (hu : t.unit = .idle)
    (ht : t.turns = []) (hk : k ≤ m) : Sys2Proof.core.run m s = .next t := by
  obtain ⟨d, rfl⟩ := Nat.exists_eq_add_of_le hk
  rw [run_add _ _ _ _ h, run_idle _ hu ht]

/-- The store of an entry neither reads nor changes the unit's run state. -/
theorem storeEntry_withRun {w : Width} (i : Nat) (a : BitVec 8) (v : BitVec w.bits) (s : State) (r : RunState) :
    storeEntry w i a v (s.withRun r) = (storeEntry w i a v s).withRun r := by
  have e : storeAnswer a (s.withRun r) = storeAnswer a s := rfl
  unfold storeEntry memWrite
  rw [e]
  by_cases h : storeAnswer a s = true
  · simp only [h, if_true]; rfl
  · simp only [h]; rfl

/-- WRITEALL's loop neither reads nor changes the unit's run state. -/
theorem atomicStores_withRun (w : Width) (b : Nat) (v : Bool) (r : RunState) (l : List (BitVec 8)) (i : Nat) (s : State) :
    atomicStores w b v i l (s.withRun r) = (atomicStores w b v i l s).withRun r := by
  induction l generalizing i s with
  | nil => rfl
  | cons a l ih =>
    simp only [atomicStores]
    rw [← ih, ← storeEntry_withRun]
    rfl

/-- WRITEALL's loop leaves STATUS, the unit and the pending turns alone (41_multitarget.md R145). -/
theorem atomicStores_frame (w : Width) (b : Nat) (v : Bool) (l : List (BitVec 8)) (i : Nat) (s : State) :
    (atomicStores w b v i l s).status = s.status ∧ (atomicStores w b v i l s).unit = s.unit ∧
    (atomicStores w b v i l s).turns = s.turns ∧ (atomicStores w b v i l s).cfg = s.cfg := by
  induction l generalizing i s with
  | nil => exact ⟨rfl, rfl, rfl, rfl⟩
  | cons a l ih =>
    simp only [atomicStores]
    obtain ⟨h1, h2, h3, h4⟩ := ih (i + 1) (storeEntry w i a (bitSetWhole w (memRead w a s) b v) s)
    rw [h1, h2, h3, h4]
    rcases storeEntry_cases w i a (bitSetWhole w (memRead w a s) b v) s with ⟨-, e⟩ | ⟨-, e⟩ <;> rw [e] <;>
      exact ⟨rfl, rfl, rfl, rfl⟩

end Sys2Proof.Machine
end

