-- ==== Sys2Proof/Tests/Slice0.lean ====
section
/-! SUPPORT. Tests whose expected values are those of spec/95_test_vectors.md or written out from the rule named, and,
for every statement with hypotheses, a concrete state that meets them all. -/

namespace Sys2Proof.Tests

open Sys2Proof Sys2Proof.Machine

/-! ### A small machine: the configuration and slots of 95_test_vectors.md -/

/-- NMAX = 16 and the eight slots of 95_test_vectors.md. -/
def cfg : Config where
  nmax := 16
  slotCaps := [.w64, .w64, .w64, .w128, .w256, .w8, .w64, .w64]
  nmax_pos := by decide
  nmax_le := by decide
  nslot_pos := by decide
  nslot_le := by decide

/-- The launch state with slot 1 = slot 2 = 1, view entries 1, 2, 0, and these pending turns. -/
def base (turns : List Turn) : State :=
  { State.launch cfg [(1, 1#256), (2, 1#256)] with
    tgt := 1#8 :: 2#8 :: List.replicate 14 0#8, cinTag := 0b001#3, cin0 := 0xA55A#64, turns := turns }

/-- The command `c` has been started on `s`, and stands at entry `i` of phase `ph`. -/
def runningOn (s : State) (c : BitVec 32) (ph : Phase) (i : Nat) : State :=
  (commandStart c s).withRun ⟨snapshot c s, i, ph, 1#256, ⟨true, true, true⟩⟩

/-- The same on `base`. -/
def running (c : BitVec 32) (ph : Phase) (i : Nat) (turns : List Turn) : State := runningOn (base turns) c ph i

/-- Two fields of the next state, where there is one. -/
def after {α : Type} (r : Result) (f : State → α) : Option α :=
  match r with
  | .next t => some (f t)
  | .fault _ => none
  | .refused _ => none

/-! ### WellFormed: each check refuses an ill-formed term (30_encoding.md R84, R88) -/

theorem test_read_too_many_targets : Instr.wellFormed 16 (.read .w64 17#6 0#16) = false := by decide
theorem test_hasdis_too_many_targets : Instr.wellFormed 16 (.hasdis .w64 17#6 0#16) = false := by decide
theorem test_writeall_too_many_targets : Instr.wellFormed 16 (.writeall .w64 17#6 0#16 true) = false := by decide
theorem test_nmax_targets_are_well_formed : Instr.wellFormed 16 (.read .w64 16#6 0#16) = true := by decide

/-! ### Decode: words written out bit by bit from 30_encoding.md R80, one for each constructor -/

/-- IDX = 200, RSV = 0, NT = 0, V = 0, WC = 101, OP = 0001 (0x00C80051, vector S8). -/
theorem test_decode_get : decode 16 0b00000000110010000000000001010001#32 = .command (.get .w256 200#16) := by decide
/-- IDX = 200, V = 1, WC = 101, OP = 0010 (0x00C800D2, vector S8). -/
theorem test_decode_set : decode 16 0b00000000110010000000000011010010#32 = .command (.set .w256 200#16 true) := by decide
/-- IDX = 1, NT = 2, WC = 011, OP = 0011 (0x00010233, vector M2). -/
theorem test_decode_read : decode 16 0b00000000000000010000001000110011#32 = .command (.read .w64 2#6 1#16) := by decide
/-- IDX = 0, NT = 3, WC = 011, OP = 0100 (0x00000334, vector M7). -/
theorem test_decode_hasdis : decode 16 0b00000000000000000000001100110100#32 = .command (.hasdis .w64 3#6 0#16) := by decide
/-- IDX = 63, NT = 1, V = 0, WC = 011, OP = 0101 (0x003F0135, vector W4). -/
theorem test_decode_writeall :
    decode 16 0b00000000001111110000000100110101#32 = .command (.writeall .w64 1#6 63#16 false) := by decide

/-- The illegal words of 95_test_vectors.md, section 2, each with its cause. -/
theorem test_decode_illegal :
    decode 16 0x00000000#32 = .illegal .reservedOpcode ∧ decode 16 0x00000006#32 = .illegal .reservedOpcode ∧
    decode 16 0x0000000F#32 = .illegal .reservedOpcode ∧ decode 16 0x00000061#32 = .illegal .reservedWidth ∧
    decode 16 0x00000071#32 = .illegal .reservedWidth ∧ decode 16 0x00004001#32 = .illegal .reservedBits ∧
    decode 16 0x00008001#32 = .illegal .reservedBits ∧ decode 16 0x00000081#32 = .illegal .unusedField ∧
    decode 16 0x00000101#32 = .illegal .unusedField ∧ decode 16 0x00000102#32 = .illegal .unusedField ∧
    decode 16 0x00000083#32 = .illegal .unusedField ∧ decode 16 0x00000084#32 = .illegal .unusedField ∧
    decode 16 0x00001133#32 = .illegal .tooManyTargets := by decide

/-- Assembling gives the words of 95_test_vectors.md back. -/
theorem test_encode :
    encode (.get .w256 200#16) = 0x00C80051#32 ∧ encode (.set .w16 4#16 true) = 0x00040092#32 ∧
    encode (.read .w64 2#6 1#16) = 0x00010233#32 ∧ encode (.hasdis .w64 3#6 0#16) = 0x00000334#32 ∧
    encode (.writeall .w64 3#6 5#16 true) = 0x000503B5#32 := by decide

/-- The pseudo-instructions of 30_encoding.md R93 assemble to the words of vectors W1, W3 and programs P1. -/
theorem test_encode_spellings :
    encode (wsetb .w64 3#6 5#16) = 0x000503B5#32 ∧ encode (wclrb .w64 2#6 0#16) = 0x00000235#32 ∧
    encode (setb .w128 63#16) = 0x003F00C2#32 ∧ encode (clrb .w128 63#16) = 0x003F0042#32 := by decide

/-- What the host asks: the table word's instruction, and its step as the first after reset. -/
theorem test_table_word :
    decodeTableWord 32 0x00010233 = some (.read .w64 2#6 1#16) ∧ decodeTableWord 32 0x00004001 = none ∧
    after (step (State.reset.withFetchWord 32 0x00000001)) (fun t => (t.status, t.unit)) = some (0#16, .idle) := by
  decide

/-! ### One step of each instruction, values of 95_test_vectors.md -/

/-- Section 2, GET, W = 16, CIN = 0xA55A: b = 0 gives 0, b = 15 gives 1. -/
theorem test_get_bit_0 : after (step (running 0x00000011#32 .check 0 [])) (fun t => (t.status, t.unit)) =
    some (0x0000#16, .idle) := by decide
theorem test_get_bit_15 : after (step (running 0x000F0011#32 .check 0 [])) (fun t => (t.status, t.unit)) =
    some (0x0010#16, .idle) := by decide

/-- Section 2, SET, W = 16, CIN = 0xA55A: bit 0 set gives 0xA55B, bit 15 cleared gives 0x255A. -/
theorem test_set_bit_0 : after (step (running 0x00000092#32 .check 0 [])) (fun t => (t.cout0, t.coutTag)) =
    some (0xA55B#64, 0b001#3) := by decide
theorem test_clear_bit_15 : after (step (running 0x000F0012#32 .check 0 [])) (fun t => (t.cout0, t.coutTag)) =
    some (0x255A#64, 0b001#3) := by decide

/-- Vector M6: READ over 1, 2, 0 loads a 0 at the last entry and goes to Finish with a mixed accumulator. -/
theorem test_read_last_entry_disagrees : after (step (running 0x00000333#32 .load 2 [])) (fun t => t.unit) =
    some (.run ⟨snapshot 0x00000333#32 (base []), 3, .finish, 1#256, ⟨true, false, true⟩⟩) := by decide
/-- Vector M3: all entries 1 give STATUS = 0x0320. -/
theorem test_read_all_true : after (step (running 0x00000133#32 .finish 1 [])) (fun t => (t.status, t.unit)) =
    some (0x0320#16, .idle) := by decide

/-- Vector M8: entries that agree on 1 give STATUS = 0x0300. -/
theorem test_hasdis_agree : after (step (running 0x00000234#32 .finish 2 [])) (fun t => (t.status, t.unit)) =
    some (0x0300#16, .idle) := by decide
/-- Vector M15: an index of 64 at width 64 gives STATUS = 0x0002. -/
theorem test_hasdis_range : after (step (running 0x00400234#32 .check 0 [])) (fun t => (t.status, t.unit)) =
    some (0x0002#16, .idle) := by decide

/-- Vector W5, its second store: slot 2 takes bit 7, WOK reports the entry. -/
theorem test_writeall_accepted :
    after (step { running 0x000702B5#32 .store 1 [] with answers := [true] }) (fun t => (t.wok, t.wfail, t.slots)) =
      some (0b10#64, 0#64, [(1, 1#256), (2, 0x81#256)]) := by decide
/-- Vector W5, its first store: rejected, the slot stays and WFAIL reports the entry. -/
theorem test_writeall_rejected :
    after (step { running 0x000702B5#32 .store 0 [] with answers := [false] }) (fun t => (t.wok, t.wfail, t.slots)) =
      some (0#64, 0b01#64, [(1, 1#256), (2, 1#256)]) := by decide

/-- 20_memory.md R69: signed −1 in a 64-bit slot is 0xFFFF_FFFF_FFFF_FFFF. -/
theorem test_signed_minus_one : (ofSigned .w64 (-1)).toNat = 0xFFFFFFFFFFFFFFFF := by decide

/-- The slot memory after reset has its canonical form. -/
theorem test_reset_memory_wf : Memory.wf State.reset.slots := by decide

/-! ### Witnesses: states that meet the invariant -/

theorem slotsFit_base : slotsFit cfg [(1, 1#256), (2, 1#256)] := by
  intro c hc
  simp only [List.mem_cons, List.not_mem_nil, or_false] at hc
  rcases hc with rfl | rfl <;> exact ⟨.w64, by decide, by decide⟩

theorem inv_base (turns : List Turn) : Inv (base turns) where
  slotsCanonical := by show Memory.wf [(1, 1#256), (2, 1#256)]; decide
  slotsFit := slotsFit_base
  tgtLength := by show (1#8 :: 2#8 :: List.replicate 14 0#8).length = 16; decide
  statusReserved := by show statusReserved 0#16 = 0#6; decide
  coutContainer := ⟨.w8, rfl, by show (0#64 ++ 0#64 ++ 0#64 ++ 0#64).toNat < 2 ^ 8; decide⟩
  unitLegal := by
    show IdleInv (base turns)
    constructor
    · show statusBusy 0#16 = false; decide
    · show (statusErr 0#16).toNat ≤ 5; decide
    · show statusErr 0#16 ≠ 0#3 → _; intro h; exact absurd (by decide) h
    · show statusTri 0#16 ≠ 3#2; decide
    · show statusTri 0#16 = 2#2 ∨ statusDis 0#16 = true → _; intro h; exact absurd h (by decide)
    · show statusTri 0#16 = 1#2 → _; intro h; exact absurd h (by decide)
    · show statusErr 0#16 = 3#3 ↔ 0#64 ≠ 0#64; decide
    · show 0#64 &&& 0#64 = 0#64; decide

/-- WRITEALL over entries 1 and 2, loaded at entry 0 and about to store: a running state that meets the invariant. -/
theorem inv_running_writeall (turns : List Turn) : Inv (running 0x000702B5#32 .store 0 turns) where
  slotsCanonical := (inv_base turns).slotsCanonical
  slotsFit := (inv_base turns).slotsFit
  tgtLength := (inv_base turns).tgtLength
  statusReserved := by show statusReserved startStatus = 0#6; decide
  coutContainer := (inv_base turns).coutContainer
  unitLegal := by
    refine ⟨rfl, rfl, .inr (.inr (.inr ⟨.w64, 2#6, 7#16, true, ?_, ?_, ?_, ?_, ?_, 1#8, rfl, ?_⟩))⟩
    · show decode 16 0x000702B5#32 = _; decide
    · show viewCheck cfg .w64 2 7 (snapshot 0x000702B5#32 (base [])) = none; decide
    · show 0#64 &&& 0#64 = 0#64; decide
    · show 0#64 ||| 0#64 = BitVec.ofNat 64 (2 ^ 0 - 1); decide
    · show 0 < 2; decide
    · show 1#256 = ((slotLookup [(1, 1#256), (2, 1#256)] 1).setWidth 64).setWidth 256; decide

/-! ### Witnesses: one for every statement with hypotheses, at a boundary of each clause -/

theorem witness_ResetTurnSetsEveryRegister :
    (running 0x000702B5#32 .store 0 [.reset]).turns = .reset :: [] := rfl

theorem witness_LaunchStateMeetsInvariant :
    Memory.wf [(1, 1#256), (2, 1#256)] ∧ slotsFit cfg [(1, 1#256), (2, 1#256)] := ⟨by decide, slotsFit_base⟩

theorem witness_EveryStepKeepsInvariant :
    Inv (running 0x000702B5#32 .store 0 [.reset]) ∧
      ∃ t, step (running 0x000702B5#32 .store 0 [.reset]) = .next t := ⟨inv_running_writeall _, _, rfl⟩

theorem witness_BusyExactlyWhileRunning :
    Inv (running 0x000702B5#32 .store 0 []) ∧ (running 0x000702B5#32 .store 0 []).unit ≠ .idle ∧
      Inv (base []) ∧ (base []).unit = .idle := ⟨inv_running_writeall _, nofun, inv_base _, rfl⟩

/-- While WRITEALL runs over slots 1 and 2 the host may read slot 0. -/
theorem witness_OnlyForbiddenTurnsStop :
    Inv (running 0x000702B5#32 .store 0 [.host (.loadSlot 0#8)]) ∧
      turnAllowed (running 0x000702B5#32 .store 0 [.host (.loadSlot 0#8)]) :=
  ⟨inv_running_writeall _, by
    show cfg.slotCap 0 ≠ none ∧ runningViewLists 0#8 (running 0x000702B5#32 .store 0 []) = false
    decide⟩

theorem witness_RegisterWriteWhileBusyFaults :
    statusBusy (running 0x000702B5#32 .store 0 []).status = true ∧
    (running 0x000702B5#32 .store 0 [.host (.writeReg 0#8 0#64)]).turns = .host (.writeReg 0#8 0#64) :: [] ∧
    (running 0x000702B5#32 .store 0 [.host (.readReg 255#8)]).turns = .host (.readReg 255#8) :: [] := by decide

theorem witness_AccessToRunningViewFaults :
    ∃ r, (running 0x000702B5#32 .store 0 [.host (.storeSlot 2#8 0#256)]).unit = .run r ∧
      r.snap.decoded = .command (.writeall .w64 2#6 7#16 true) ∧ 2#8 ∈ r.snap.handles ∧ (2#8).toNat < cfg.nslot ∧
      (running 0x000702B5#32 .store 0 [.host (.storeSlot 2#8 0#256)]).turns = .host (.storeSlot 2#8 0#256) :: [] :=
  ⟨_, rfl, by decide⟩

/-- The first slot and the last, on an idle unit. -/
theorem witness_HostSlotAccessCompletes :
    cfg.slotCap (0#8).toNat = some .w64 ∧ cfg.slotCap (7#8).toNat = some .w64 ∧
    runningViewLists 0#8 (base []) = false ∧ runningViewLists 7#8 (base []) = false ∧ Memory.wf (base []).slots ∧
    (base [.host (.loadSlot 0#8)]).turns = .host (.loadSlot 0#8) :: [] ∧
    (base [.host (.storeSlot 7#8 1#256)]).turns = .host (.storeSlot 7#8 1#256) :: [] ∧
    (base [.host (.storeSigned 7#8 (-1))]).turns = .host (.storeSigned 7#8 (-1)) :: [] := by decide

/-- The first and the last reserved number, and the ends of the read-only range. -/
theorem witness_ReservedAndReadOnlyRegisters :
    0x10 + (base []).cfg.nmax ≤ (0x20#8).toNat ∧ 0x10 + (base []).cfg.nmax ≤ (0xFF#8).toNat ∧
    (0x08 ≤ (0x08#8).toNat ∧ (0x0F#8).toNat ≤ 0x0F) ∧ statusBusy (base []).status = false ∧
    (base [.host (.readReg 0x20#8)]).turns = .host (.readReg 0x20#8) :: [] ∧
    (base [.host (.writeReg 0x0F#8 1#64)]).turns = .host (.writeReg 0x0F#8 1#64) :: [] := by decide

/-- The first and the last target register. -/
theorem witness_RegisterMapReads :
    (base [.host (.readReg 0x10#8)]).turns = .host (.readReg 0x10#8) :: [] ∧
    (0x10#8).toNat = 0x10 + 0 ∧ (0x1F#8).toNat = 0x10 + 15 ∧ 15 < (base []).cfg.nmax ∧
    (base []).tgt[0]? = some 1#8 ∧ (base []).tgt[15]? = some 0#8 := by decide

theorem witness_OperandRegisterWrites :
    statusBusy (base []).status = false ∧
    (base [.host (.writeReg 0x02#8 7#64)]).turns = .host (.writeReg 0x02#8 7#64) :: [] ∧
    (base [.host (.writeReg 0x07#8 7#64)]).turns = .host (.writeReg 0x07#8 7#64) :: [] ∧
    (base [.host (.writeReg 0x1F#8 7#64)]).turns = .host (.writeReg 0x1F#8 7#64) :: [] ∧
    (0x1F#8).toNat = 0x10 + 15 ∧ 15 < (base []).cfg.nmax ∧ (base []).tgt.length = (base []).cfg.nmax := by decide

theorem witness_CommandStartClearsStatus :
    statusBusy (base []).status = false ∧
    (base [.host (.writeReg 0x00#8 ((0x000702B5#32).setWidth 64))]).turns =
      .host (.writeReg 0x00#8 ((0x000702B5#32).setWidth 64)) :: [] := by decide

theorem witness_StepRunsTheDecodedInstruction :
    (∃ r, (running 0x000702B5#32 .store 0 [.wait]).unit = .run r ∧
      r.snap.decoded = .command (.writeall .w64 2#6 7#16 true)) ∧
    (running 0x000702B5#32 .store 0 [.wait]).turns = .wait :: [] ∧
    statusBusy (running 0x000702B5#32 .store 0 [.wait]).status = true ∧
    (running 0x000702B5#32 .store 0 [.unit]).turns = .unit :: [] ∧
    (running 0x000702B5#32 .store 0 []).turns = [] ∧
    decode (base []).cfg.nmax 0x000702B5#32 = .command (.writeall .w64 2#6 7#16 true) ∧ (base []).turns = [] :=
  ⟨⟨_, rfl, by decide⟩, by decide⟩

theorem witness_UndecodableWordRaisesIllegalCommand :
    ∃ r, (running 0x00000000#32 .check 0 []).unit = .run r ∧ r.ph = .check ∧
      r.snap.decoded = .illegal .reservedOpcode ∧ (running 0x00000000#32 .check 0 []).turns = [] := ⟨_, rfl, by decide⟩

theorem witness_IdleUnitDoesNothing :
    (base []).unit = .idle ∧ (base []).turns = [] ∧ (base [.unit]).turns = .unit :: [] := by decide

theorem witness_DecodeIsIllegalExactlyWhen :
    decode 16 0x00001033#32 = .command (.read .w64 16#6 0#16) := by decide

theorem witness_DecodeOfEncodeIsTheCommand :
    Instr.wellFormed 16 (.writeall .w256 16#6 0xFFFF#16 true) = true := by decide

theorem witness_EncodeOfDecodeIsTheWord :
    decode 63 0xFFFF3FD5#32 = .command (.writeall .w256 63#6 0xFFFF#16 true) := by decide

theorem witness_BitGetIsTheBit : 255 < Width.w256.bits := by decide

theorem witness_BitSetChangesOneBitOfOneWord : 64 < Width.w128.bits ∧ 0 < Width.w128.nwords ∧ 0 ≠ 64 / 64 := by decide

theorem witness_SetLeavesOtherBitsReadable : 63 < Width.w128.bits ∧ 64 < Width.w128.bits ∧ 63 ≠ 64 := by decide

theorem witness_SetThenGetReturnsTheValue : 7 < Width.w8.bits := by decide

theorem witness_SetTwiceIsSetOnce : 0 < Width.w16.bits := by decide

theorem witness_RepeatedStoreIsOneStore :
    let s : State := { base [] with answers := [true, true] }
    Memory.wf s.slots ∧ (memWrite .w64 1#8 5#64 s).2 = true ∧
      (memWrite .w64 1#8 5#64 (memWrite .w64 1#8 5#64 s).1).2 = true := by decide

theorem witness_GetReturnsTheCinBit :
    ∃ r, (running 0x000F0011#32 .check 0 []).unit = .run r ∧ r.ph = .check ∧ r.snap.cinTag = wcOf .w16 ∧
      (15#16).toNat < Width.w16.bits := ⟨_, rfl, by decide⟩

theorem witness_SetWritesCoutAndTag :
    ∃ r, (running 0x000F0012#32 .check 0 []).unit = .run r ∧ r.ph = .check ∧ r.snap.cinTag = wcOf .w16 ∧
      (15#16).toNat < Width.w16.bits := ⟨_, rfl, by decide⟩

/-- A tag that does not match (with an index out of range too: vector C-1), and a matching tag with index W. -/
theorem witness_ContainerCheckTagBeforeRange :
    (∃ r, (running 0x00C80041#32 .check 0 []).unit = .run r ∧ r.ph = .check ∧ r.snap.cinTag ≠ wcOf .w128) ∧
    (∃ r, (running 0x00100011#32 .check 0 []).unit = .run r ∧ r.ph = .check ∧ r.snap.cinTag = wcOf .w16 ∧
      Width.w16.bits ≤ (16#16).toNat) := ⟨⟨_, rfl, by decide⟩, ⟨_, rfl, by decide⟩⟩

theorem witness_IndexAtCapacityIsRejected :
    (16#16).toNat = Width.w16.bits ∧ (17#16).toNat = Width.w16.bits + 1 ∧ (base []).cinTag = wcOf .w16 ∧
    statusBusy (base []).status = false ∧
    (base [.host (.writeReg 0x00#8 ((encode (.get .w16 16#16)).setWidth 64))]).turns =
      [.host (.writeReg 0x00#8 ((encode (.get .w16 16#16)).setWidth 64))] := by decide

theorem witness_HighCinBitsDoNotMatter :
    ∃ r, (running 0x00000011#32 .check 0 []).unit = .run r ∧ r.ph = .check ∧
      (0xFFFFA55A#256).setWidth Width.w16.bits = r.snap.cin.setWidth Width.w16.bits := ⟨_, rfl, by decide⟩

/-- A legal view, and in turn each check's own failure (vectors M14, M13, M12, M15). -/
theorem witness_ViewChecksInOrder :
    (∃ r, (running 0x000702B5#32 .check 0 []).unit = .run r ∧ r.ph = .check ∧
      r.snap.decoded = .command (.writeall .w64 2#6 7#16 true) ∧ viewCheck cfg .w64 2 7 r.snap = none) ∧
    (∃ r, (runningOn { base [] with tgt := 0#8 :: 9#8 :: List.replicate 14 0#8 } 0x00000233#32 .check 0).unit = .run r ∧
      r.ph = .check ∧ ∃ a ∈ r.snap.handles, cfg.nslot ≤ a.toNat) ∧
    (∃ r, (running 0x00000033#32 .check 0 []).unit = .run r ∧ r.ph = .check ∧
      r.snap.decoded = .command (.read .w64 0#6 0#16)) ∧
    (∃ r, (running 0x00000243#32 .check 0 []).unit = .run r ∧ r.ph = .check ∧
      ∃ a ∈ r.snap.handles, cfg.slotCap a.toNat ≠ some .w128) ∧
    (∃ r, (running 0x00400234#32 .check 0 []).unit = .run r ∧ r.ph = .check ∧ Width.w64.bits ≤ (64#16).toNat ∧
      viewCheck cfg .w64 2 64 r.snap = some .range) :=
  ⟨⟨_, rfl, by decide⟩, ⟨_, rfl, by decide⟩, ⟨_, rfl, by decide⟩, ⟨_, rfl, by decide⟩, ⟨_, rfl, by decide⟩⟩

theorem witness_ConsensusLoadAccumulates :
    ∃ r, (running 0x00000333#32 .load 2 []).unit = .run r ∧ r.ph = .load ∧ r.snap.handles[r.i]? = some 0#8 ∧
      (0#16).toNat < Width.w64.bits := ⟨_, rfl, by decide⟩

theorem witness_ReadFinishWritesTriAllAny :
    ∃ r, (running 0x00000133#32 .finish 1 []).unit = .run r ∧ r.ph = .finish := ⟨_, rfl, rfl⟩

theorem witness_HasdisFinishWritesDisAllAny :
    ∃ r, (running 0x00000234#32 .finish 2 []).unit = .run r ∧ r.ph = .finish := ⟨_, rfl, rfl⟩

theorem witness_WriteallLoadFetchesTheContainer :
    ∃ r, (running 0x000702B5#32 .load 1 []).unit = .run r ∧ r.ph = .load ∧ r.snap.handles[r.i]? = some 2#8 :=
  ⟨_, rfl, by decide⟩

theorem witness_WriteallStoreCommitsOrReports :
    ∃ r, (running 0x000702B5#32 .store 1 []).unit = .run r ∧ r.ph = .store ∧ r.snap.handles[r.i]? = some 2#8 ∧
      (7#16).toNat < Width.w64.bits ∧ Memory.wf (running 0x000702B5#32 .store 1 []).slots := ⟨_, rfl, by decide⟩

theorem witness_WriteallFinishReportsPartialWrite :
    ∃ r, (running 0x000702B5#32 .finish 2 []).unit = .run r ∧ r.ph = .finish := ⟨_, rfl, rfl⟩

theorem witness_UnitStepFrame :
    ∃ t, exec (.get .w16 15#16) (running 0x000F0011#32 .check 0 []) = .next t ∧
      ∀ w b v, Instr.get .w16 15#16 ≠ .set w b v := ⟨_, rfl, by simp⟩

theorem witness_UnlistedSlotsUntouched :
    ∃ r t, (running 0x000702B5#32 .load 0 []).unit = .run r ∧
      exec (.writeall .w64 2#6 7#16 true) (running 0x000702B5#32 .load 0 []) = .next t ∧ 0#8 ∉ r.snap.handles :=
  ⟨_, _, rfl, rfl, by decide⟩

/-- Bits that agree, and bits that do not. -/
theorem witness_ReductionFormsAgree :
    disOf [true, true] = false ∧ disOf [true, false] = true := by decide

theorem witness_UnitStepsEqualAtomicCommand : Inv (base []) ∧ (base []).unit = .idle ∧ (base []).turns = [] :=
  ⟨inv_base _, rfl, rfl⟩

theorem witness_EveryCommandEndsInBoundedSteps :
    Inv (running 0x000702B5#32 .store 0 []) ∧ (running 0x000702B5#32 .store 0 []).turns = [] :=
  ⟨inv_running_writeall _, rfl⟩

theorem witness_WaitEndsWithTheFinalStatus :
    Inv (running 0x000702B5#32 .store 0 [.wait]) ∧ (running 0x000702B5#32 .store 0 [.wait]).turns = .wait :: [] :=
  ⟨inv_running_writeall _, rfl⟩

theorem witness_ReadMixedIffHasdis : Inv (base []) ∧ (base []).unit = .idle ∧ (base []).turns = [] :=
  ⟨inv_base _, rfl, rfl⟩

theorem witness_SingleTargetNeverMixed :
    Inv (base []) ∧ (base []).unit = .idle ∧ (base []).turns = [] ∧ (base []).tgt[0]? = some 1#8 ∧
      (base []).cfg.slotCap (1#8).toNat = some .w64 ∧ (63#16).toNat < Width.w64.bits :=
  ⟨inv_base _, by decide⟩

/-- A view of NMAX = 16 entries (1, 2 and fourteen times 0), all of width 64. -/
theorem witness_WriteallReportsAndPreserves :
    Inv (base []) ∧ (base []).unit = .idle ∧ (base []).turns = [] ∧ 0 < (16#6).toNat ∧
      (16#6).toNat ≤ (base []).cfg.nmax ∧
      (∀ i, i < (16#6).toNat → ∃ a, (base []).tgt[i]? = some a ∧ (base []).cfg.slotCap a.toNat = some .w64) ∧
      (63#16).toNat < Width.w64.bits := by
  refine ⟨inv_base _, rfl, rfl, by decide, by decide, fun i hi => ?_, by decide⟩
  have h : i < 16 := hi
  interval_cases i <;> exact ⟨_, rfl, rfl⟩

theorem witness_ErrorsHaveNoPartialEffect :
    Inv (base []) ∧ (base []).unit = .idle ∧ (base []).turns = [] ∧
      after (step (commandStart 0x00000000#32 (base []))) (fun t => statusErr t.status) = some 5#3 :=
  ⟨inv_base _, by decide⟩

end Sys2Proof.Tests
end

section
/-! PROOFS. The host's side of the block: what a register or slot access does, forwards, and the statements about them
(10_state.md R31 to R35, 70_reset_and_hazards.md R215). -/

namespace Sys2Proof.Machine

/-! ### The register map -/

/-- A target number names its target register (10_state.md R33). -/
theorem regOf_tgt {nmax i : Nat} {n : BitVec 8} (hn : n.toNat = 0x10 + i) (hi : i < nmax) :
    regOf nmax n = .tgt i := by
  have h : n.toNat = i + 0x10 := by omega
  simp only [regOf, h, hi, if_true]

/-- A number past the last target register is reserved (10_state.md R32). -/
theorem regOf_past_targets {nmax : Nat} {n : BitVec 8} (hn : 0x10 + nmax ≤ n.toNat) : regOf nmax n = .reserved := by
  obtain ⟨k, hk⟩ := Nat.exists_eq_add_of_le' (show 0x10 ≤ n.toNat by omega)
  simp only [regOf, hk, show ¬ k < nmax by omega, if_false]

/-- The two numbers between WFAIL and TGT are reserved (10_state.md R32). -/
theorem regOf_gap {nmax : Nat} {n : BitVec 8} (hn : n = 0x0E#8 ∨ n = 0x0F#8) : regOf nmax n = .reserved := by
  rcases hn with rfl | rfl <;> rfl

/-- A reserved number reads 0 (10_state.md R32). -/
theorem readReg_reserved {n : BitVec 8} {s : State} (h : regOf s.cfg.nmax n = .reserved) : readReg n s = 0#64 := by
  simp only [readReg, h]

/-- A target number reads its target register (10_state.md R33). -/
theorem readReg_tgt {n : BitVec 8} {i : Nat} {x : BitVec 8} {s : State} (hn : n.toNat = 0x10 + i)
    (hi : i < s.cfg.nmax) (hx : s.tgt[i]? = some x) : readReg n s = x.setWidth 64 := by
  simp only [readReg, regOf_tgt hn hi, List.getD_eq_getElem?_getD, hx, Option.getD_some]

/-- A write to a reserved number is ignored (10_state.md R32). -/
theorem writeReg_reserved {n : BitVec 8} {v : BitVec 64} {s : State} (h : regOf s.cfg.nmax n = .reserved) :
    writeReg n v s = s := by
  simp only [writeReg, h]

/-- A write to a read-only register, or to the gap behind them, is ignored (10_state.md R32). -/
theorem writeReg_readOnly {n : BitVec 8} {v : BitVec 64} {s : State}
    (h : n = 0x01#8 ∨ n = 0x03#8 ∨ (0x08 ≤ n.toNat ∧ n.toNat ≤ 0x0F)) : writeReg n v s = s := by
  rcases h with rfl | rfl | ⟨hlo, hhi⟩
  · rfl
  · rfl
  · obtain ⟨k, hk⟩ : ∃ k, n.toNat = k := ⟨_, rfl⟩
    obtain rfl : n = BitVec.ofNat 8 k := BitVec.eq_of_toNat_eq (by simp [← hk])
    have hle : 0x08 ≤ k ∧ k ≤ 0x0F := by omega
    obtain ⟨h8, h15⟩ := hle
    interval_cases k <;> rfl

/-- A write to a target number stores the byte in its target register (20_memory.md R72). -/
theorem writeReg_tgt {n : BitVec 8} {i : Nat} {v : BitVec 64} {s : State} (hn : n.toNat = 0x10 + i)
    (hi : i < s.cfg.nmax) : writeReg n v s = { s with tgt := s.tgt.set i (v.setWidth 8) } := by
  simp only [writeReg, regOf_tgt hn hi]

/-! ### A host access as one step -/

/-- A register read changes nothing but the host's own copy (20_memory.md R72). -/
theorem step_of_readReg {s : State} {n : BitVec 8} {rest : List Turn} (h : s.turns = .host (.readReg n) :: rest) :
    step s = .next { s with turns := rest, hostRead := (readReg n s).setWidth 256 } := by
  rw [step_of_turn h]
  rfl

/-- A register write while BUSY = 0 completes (70_reset_and_hazards.md R215). -/
theorem step_of_writeReg {s : State} {n : BitVec 8} {v : BitVec 64} {rest : List Turn}
    (hb : statusBusy s.status = false) (h : s.turns = .host (.writeReg n v) :: rest) :
    step s = .next (writeReg n v (s.withTurns rest)) := by
  simp only [step_of_turn h, takeTurn, hostAccess, withTurns_status, hb, Bool.false_eq_true, if_false]

/-- An access to an existing slot that no running view lists completes (70_reset_and_hazards.md R210). -/
theorem hostSlot_of_unlisted {a : BitVec 8} {s : State} {w : Width} (f : Width → State)
    (hw : s.cfg.slotCap a.toNat = some w) (hl : runningViewLists a s = false) : hostSlot a s f = .next (f w) := by
  simp only [hostSlot, hw, hl, Bool.false_eq_true, if_false]

section Slots
variable {s : State} {a : BitVec 8} {w : Width} {rest : List Turn}
  (hw : s.cfg.slotCap a.toNat = some w) (hl : runningViewLists a s = false)
include hw hl

/-- A slot load hands over the whole container and changes nothing (70_reset_and_hazards.md R215). -/
theorem step_of_loadSlot (h : s.turns = .host (.loadSlot a) :: rest) :
    step s = .next { s with turns := rest, hostRead := (memRead w a s).setWidth 256 } := by
  rw [step_of_turn h]
  exact hostSlot_of_unlisted _ hw hl

/-- A slot store replaces the slot (70_reset_and_hazards.md R215; log 7, log 16). -/
theorem step_of_storeSlot {x : BitVec 256} (h : s.turns = .host (.storeSlot a x) :: rest) :
    step s = .next
      { s with turns := rest, slots := slotUpdate s.slots a.toNat ((x.setWidth w.bits).setWidth 256) } := by
  rw [step_of_turn h]
  exact hostSlot_of_unlisted _ hw hl

/-- A signed slot store replaces the slot by the bit pattern of the integer (20_memory.md R69; log 17). -/
theorem step_of_storeSigned {z : Int} (h : s.turns = .host (.storeSigned a z) :: rest) :
    step s = .next { s with turns := rest, slots := slotUpdate s.slots a.toNat ((ofSigned w z).setWidth 256) } := by
  rw [step_of_turn h]
  exact hostSlot_of_unlisted _ hw hl

end Slots

/-- Zero-extending a container to 256 bits keeps its value (10_state.md R25). -/
theorem toNat_setWidth_256 {w : Width} (c : BitVec w.bits) : (c.setWidth 256).toNat = c.toNat :=
  BitVec.toNat_setWidth_of_le (bits_le w)

/-- `data = s mod 2^W` (20_memory.md R69). -/
theorem toNat_ofSigned (w : Width) (z : Int) : ((ofSigned w z).toNat : Int) = z % 2 ^ w.bits := by
  rw [ofSigned, BitVec.toNat_ofInt, Int.toNat_of_nonneg (Int.emod_nonneg _ (by positivity))]
  norm_cast

/-! ### The statements about the host's accesses -/

/-- Settles O9: each access is one slot update or read, and the slot memory's laws say what is read afterwards. -/
theorem hostSlotAccessCompletes : Obligations.HostSlotAccessCompletes := by
  intro s a w rest hw hl hwf
  refine ⟨fun h => ⟨_, step_of_loadSlot hw hl h, setWidth_bits_256 w _⟩, fun x h => ?store, fun z h => ?signed⟩
  case store =>
    refine ⟨_, step_of_storeSlot hw hl h, fun j => ?_, fun a' ha' => slotLookup_update_other _ ha'⟩
    rw [slotLookup_update_same hwf, setWidth_bits_256]
  case signed =>
    refine ⟨_, step_of_storeSigned hw hl h, ?_, fun a' ha' => slotLookup_update_other _ ha'⟩
    rw [slotLookup_update_same hwf, toNat_setWidth_256, toNat_ofSigned]

/-- Settles O10: a number outside the map is `reserved`, and `writeReg` has no effect on a read-only register. -/
theorem reservedAndReadOnlyRegisters : Obligations.ReservedAndReadOnlyRegisters := by
  intro s n v rest
  refine ⟨fun hn h => ?read, fun hn hb h => ?write⟩
  case read =>
    have hres : regOf s.cfg.nmax n = .reserved := by
      rcases hn with hn | hn | hn
      · exact regOf_gap (.inl hn)
      · exact regOf_gap (.inr hn)
      · exact regOf_past_targets hn
    rw [step_of_readReg h, readReg_reserved hres]
    rfl
  case write =>
    have hkeep : writeReg n v (s.withTurns rest) = s.withTurns rest := by
      rcases hn with hn | hn | hn | hn
      · exact writeReg_readOnly (.inl hn)
      · exact writeReg_readOnly (.inr (.inl hn))
      · exact writeReg_readOnly (.inr (.inr hn))
      · exact writeReg_reserved (regOf_past_targets hn)
    rw [step_of_writeReg hb h, hkeep]
    rfl

/-- Settles O11: the map of 10_state.md R33 number by number, the targets by their index. -/
theorem registerMapReads : Obligations.RegisterMapReads := fun _ =>
  ⟨fun _ _ h => step_of_readReg h, rfl, rfl, rfl, rfl, rfl, rfl, rfl, rfl, rfl, rfl, rfl, rfl, rfl, rfl,
    fun _ _ _ hn hi hx => readReg_tgt hn hi hx⟩

/-- Settles O12: each write of an operand register is one field of the state replaced. -/
theorem operandRegisterWrites : Obligations.OperandRegisterWrites := by
  intro s n v rest hb h
  rw [step_of_writeReg hb h]
  refine ⟨?_, ?_, ?_, ?_, ?_, fun i hn hi hlen => ?target⟩
  case target =>
    refine ⟨_, congrArg _ (writeReg_tgt hn hi), List.length_set, ?_, fun j hj => List.getElem?_set_ne (Ne.symm hj)⟩
    exact List.getElem?_set_self (by rw [withTurns_tgt]; omega)
  all_goals
    rintro rfl
    rfl

/-- Settles O13: the write of CMD is `commandStart` on the word written. -/
theorem commandStartClearsStatus : Obligations.CommandStartClearsStatus := by
  intro s c rest hb h
  have hword : (c.setWidth 64).setWidth 32 = c := by
    rw [BitVec.setWidth_setWidth_of_le _ (by omega), BitVec.setWidth_eq]
  have hcmd : writeReg 0x00#8 (c.setWidth 64) (s.withTurns rest) = commandStart c (s.withTurns rest) :=
    congrArg (commandStart · (s.withTurns rest)) hword
  rw [step_of_writeReg hb h, hcmd]
  exact ⟨_, rfl, rfl, rfl, rfl, rfl, rfl, rfl⟩

end Sys2Proof.Machine
end

section
/-! PROOFS. What any unit step writes, over all instructions, and so what none changes (41_multitarget.md R155). -/

namespace Sys2Proof.Machine

/-- What a unit step of any instruction writes: STATUS and the unit; SET writes COUT and COUTTAG too (40_container.md
R111), and WRITEALL may store and report one entry (41_multitarget.md R152). -/
theorem exec_next_writes {i : Instr} {s t : State} (h : exec i s = .next t) :
    (∃ st u, t = { s with status := st, unit := u }) ∨
    (∃ w b v, i = .set w b v ∧ ∃ tag c st, t = (s.withCout tag c).finishWith st) ∨
    (∃ w n b v, i = .writeall w n b v ∧ ∃ j a, ∃ c : BitVec w.bits, ∃ r, t = (storeEntry w j a c s).withRun r) := by
  cases i with
  | get w b =>
    obtain ⟨r, -, -, ⟨e, -, rfl⟩ | ⟨-, rfl⟩⟩ := execGet_next h
    · exact .inl ⟨_, _, rfl⟩
    · exact .inl ⟨_, _, rfl⟩
  | set w b v =>
    obtain ⟨r, -, -, ⟨e, -, rfl⟩ | ⟨-, rfl⟩⟩ := execSet_next h
    · exact .inl ⟨_, _, rfl⟩
    · exact .inr (.inl ⟨w, b, v, rfl, _, _, _, rfl⟩)
  | read w n b =>
    obtain ⟨r, -, ⟨-, e, -, rfl⟩ | ⟨-, -, rfl⟩ | ⟨-, a, -, x, -, rfl⟩ | ⟨-, rfl⟩⟩ := execRead_next h
    all_goals exact .inl ⟨_, _, rfl⟩
  | hasdis w n b =>
    obtain ⟨r, -, ⟨-, e, -, rfl⟩ | ⟨-, -, rfl⟩ | ⟨-, a, -, x, -, rfl⟩ | ⟨-, rfl⟩⟩ := execHasdis_next h
    all_goals exact .inl ⟨_, _, rfl⟩
  | writeall w n b v =>
    obtain ⟨r, -, ⟨-, e, -, rfl⟩ | ⟨-, -, rfl⟩ | ⟨-, a, -, rfl⟩ | ⟨-, a, -, rfl⟩ | ⟨-, rfl⟩⟩ := execWriteall_next h
    case inr.inr.inr.inl => exact .inr (.inr ⟨w, n, b, v, rfl, _, _, _, _, rfl⟩)
    all_goals exact .inl ⟨_, _, rfl⟩

/-- Settles O40: each of the three forms of a unit step writes none of the fields named. -/
theorem unitStepFrame : Obligations.UnitStepFrame := by
  intro i s t h
  obtain ⟨st, u, rfl⟩ | ⟨w, b, v, rfl, tag, c, st, rfl⟩ | ⟨w, n, b, v, rfl, j, a, c, r, rfl⟩ := exec_next_writes h
  · exact ⟨rfl, rfl, rfl, rfl, rfl, rfl, rfl, rfl, rfl, rfl, fun _ => ⟨rfl, rfl, rfl, rfl, rfl⟩,
      fun _ => ⟨rfl, rfl, rfl, rfl, rfl⟩⟩
  · exact ⟨rfl, rfl, rfl, rfl, rfl, rfl, rfl, rfl, rfl, rfl, fun hi => absurd rfl (hi w b v),
      fun _ => ⟨rfl, rfl, rfl, rfl, rfl⟩⟩
  · obtain ⟨-, e⟩ | ⟨-, e⟩ := storeEntry_cases w j a c s <;> rw [e] <;>
      exact ⟨rfl, rfl, rfl, rfl, rfl, rfl, rfl, rfl, rfl, rfl, fun _ => ⟨rfl, rfl, rfl, rfl, rfl⟩,
        fun hi => absurd rfl (hi w n b v)⟩

end Sys2Proof.Machine
end

section
/-! PROOFS. The invariant of Safety.lean, part by part: what it says of an idle and of a running unit, and which
changes of the state keep each part. -/

namespace Sys2Proof.Machine

/-! ### Reading the invariant -/

theorem unitInv_of_idle {s : State} (hu : s.unit = .idle) : unitInv s ↔ IdleInv s := by
  simp only [unitInv, hu]

theorem unitInv_of_run {s : State} {r : RunState} (hu : s.unit = .run r) : unitInv s ↔ runInv r s := by
  simp only [unitInv, hu]

theorem Inv.atRest {s : State} (h : Inv s) (hu : s.unit = .idle) : IdleInv s := (unitInv_of_idle hu).mp h.unitLegal

theorem Inv.running {s : State} {r : RunState} (h : Inv s) (hu : s.unit = .run r) : runInv r s :=
  (unitInv_of_run hu).mp h.unitLegal

/-- BUSY = 1 exactly while the unit runs (70_reset_and_hazards.md R212). -/
theorem Inv.busy_iff {s : State} (h : Inv s) : statusBusy s.status = true ↔ s.unit ≠ .idle := by
  cases hu : s.unit with
  | idle => simp [(h.atRest hu).notBusy]
  | run r =>
    obtain ⟨-, hstatus, -⟩ := h.running hu
    simp [hstatus, startStatus_fields.1]

theorem Inv.idle_of_not_busy {s : State} (h : Inv s) (hb : statusBusy s.status = false) : s.unit = .idle := by
  by_contra hu
  simp [h.busy_iff.mpr hu] at hb

/-! ### The bitmaps -/

/-- WOK and WFAIL together report exactly the entries below `i`, each in one bitmap (41_multitarget.md R148). -/
def ReportsBelow (i : Nat) (ok fail : BitVec 64) : Prop :=
  ok &&& fail = 0#64 ∧ ok ||| fail = BitVec.ofNat 64 (2 ^ i - 1)

theorem reportsBelow_zero : ReportsBelow 0 0#64 0#64 := ⟨by decide, by decide⟩

theorem ReportsBelow.symm {i : Nat} {ok fail : BitVec 64} (h : ReportsBelow i ok fail) : ReportsBelow i fail ok :=
  ⟨BitVec.and_comm _ _ ▸ h.1, BitVec.or_comm _ _ ▸ h.2⟩

/-- Reporting entry `i` in one bitmap extends the report by that entry. -/
theorem ReportsBelow.report {i : Nat} {ok fail : BitVec 64} (h : ReportsBelow i ok fail) (hi : i < 64) :
    ReportsBelow (i + 1) (ok ||| 1#64 <<< i) fail := by
  obtain ⟨hand, hor⟩ := h
  have hbit : ∀ j, j < 64 → (ok.getLsbD j || fail.getLsbD j) = decide (j < i) := fun j hj => by
    rw [← BitVec.getLsbD_or, hor, BitVec.getLsbD_ofNat, Nat.testBit_two_pow_sub_one]
    simp [hj]
  have hdisj : ∀ j, (ok.getLsbD j && fail.getLsbD j) = false := fun j => by
    rw [← BitVec.getLsbD_and, hand, BitVec.getLsbD_zero]
  refine ⟨BitVec.eq_of_getLsbD_eq fun j hj => ?disjoint, BitVec.eq_of_getLsbD_eq fun j hj => ?union⟩
  case disjoint =>
    rw [BitVec.getLsbD_and, BitVec.getLsbD_or, getLsbD_one_shiftLeft, BitVec.getLsbD_zero]
    by_cases hji : j = i
    · have hnot : (ok.getLsbD i || fail.getLsbD i) = false := by rw [hbit i hi]; simp
      have hfail : fail.getLsbD i = false := (Bool.or_eq_false_iff.mp hnot).2
      simp [hji, hfail]
    · simpa [hji] using hdisj j
  case union =>
    rw [BitVec.getLsbD_or, BitVec.getLsbD_or, getLsbD_one_shiftLeft, BitVec.getLsbD_ofNat,
      Nat.testBit_two_pow_sub_one, Bool.or_right_comm, hbit j hj]
    simp only [hj, true_and, decide_true, Bool.true_and, ← Bool.decide_or]
    exact decide_eq_decide.mpr (by omega)

/-! ### The slots -/

/-- A container zero-extended to 256 bits still fits its width (10_state.md R25). -/
theorem toNat_setWidth_256_lt {w : Width} (c : BitVec w.bits) : (c.setWidth 256).toNat < 2 ^ w.bits :=
  toNat_setWidth_256 c ▸ c.isLt

/-- A store of a container of the slot's own width keeps every slot at its width (10_state.md R25). -/
theorem slotsFit_update {cfg : Config} {m : SlotMemory} (hwf : Memory.wf m) (hfit : slotsFit cfg m) {a : Nat}
    {w : Width} (hw : cfg.slotCap a = some w) (c : BitVec w.bits) :
    slotsFit cfg (slotUpdate m a (c.setWidth 256)) := by
  intro d hd
  obtain ⟨rfl, -⟩ | ⟨hmem, -⟩ := mem_slotUpdate hwf hd
  · exact ⟨w, hw, toNat_setWidth_256_lt c⟩
  · exact hfit d hmem

/-! ### The operands and the view -/

/-- The view of a legal view command lists exactly NT handles (30_encoding.md R84, 41_multitarget.md R150). -/
theorem snapshot_handles_length {s : State} {c : BitVec 32} {n : BitVec 6} (ht : s.tgt.length = s.cfg.nmax)
    (hn : ntField c = n ∧ n.toNat ≤ s.cfg.nmax) : (snapshot c s).handles.length = n.toNat := by
  obtain ⟨rfl, hle⟩ := hn
  simp only [snapshot, List.length_take, ht]
  omega

/-- The command decoded is READ or HASDIS, which differ only in the STATUS their Finish writes (41_multitarget.md
R151). -/
def IsConsensus (d : Decoded) (w : Width) (n : BitVec 6) (b : BitVec 16) : Prop :=
  d = .command (.read w n b) ∨ d = .command (.hasdis w n b)

theorem IsConsensus.entries {nmax : Nat} {c : BitVec 32} {w : Width} {n : BitVec 6} {b : BitVec 16}
    (h : IsConsensus (decode nmax c) w n b) : ntField c = n ∧ n.toNat ≤ nmax := by
  rcases h with h | h
  · exact decode_read h
  · exact decode_hasdis h

/-! ### A running unit -/

section Run
variable {r : RunState} {s : State}

/-- In its Check phase a command has reported nothing yet (10_state.md R43). -/
theorem runInv_check (h : runInv r s) (hp : r.ph = .check) : r.i = 0 ∧ s.wok = 0#64 ∧ s.wfail = 0#64 := by
  obtain ⟨-, -, ⟨-, hi, hok, hfail⟩ | ⟨w, n, b, -, -, -, -, hph⟩ | ⟨w, n, b, -, -, -, -, hph⟩ |
    ⟨w, n, b, v, -, -, -, -, hph⟩⟩ := h
  · exact ⟨hi, hok, hfail⟩
  all_goals simp [hp] at hph

/-- Past its Check, a READ or HASDIS is in the phases of `consensusInv`. -/
theorem consensusInv_of_runInv {w : Width} {n : BitVec 6} {b : BitVec 16} (h : runInv r s)
    (hd : IsConsensus r.snap.decoded w n b) (hp : r.ph ≠ .check) : consensusInv w n b r s := by
  obtain ⟨-, -, ⟨hph, -⟩ | ⟨w', n', b', hd', hc⟩ | ⟨w', n', b', hd', hc⟩ | ⟨w', n', b', v', hd', -⟩⟩ := h
  case inl => exact absurd hph hp
  case inr.inr.inr => rcases hd with hd | hd <;> simp [hd] at hd'
  all_goals
    rcases hd with hd | hd <;>
      simp only [hd, Decoded.command.injEq, Instr.read.injEq, Instr.hasdis.injEq, reduceCtorEq] at hd'
    obtain ⟨rfl, rfl, rfl⟩ := hd'
    exact hc

theorem runInv_of_consensusInv {w : Width} {n : BitVec 6} {b : BitVec 16} (hsnap : r.snap = snapshot s.cmd s)
    (hstatus : s.status = startStatus) (hd : IsConsensus r.snap.decoded w n b) (hc : consensusInv w n b r s) :
    runInv r s := by
  rcases hd with hd | hd
  · exact ⟨hsnap, hstatus, .inr (.inl ⟨w, n, b, hd, hc⟩)⟩
  · exact ⟨hsnap, hstatus, .inr (.inr (.inl ⟨w, n, b, hd, hc⟩))⟩

/-- Past its Check, a WRITEALL is in the phases of `writeallInv`. -/
theorem writeallInv_of_runInv {w : Width} {n : BitVec 6} {b : BitVec 16} {v : Bool} (h : runInv r s)
    (hd : r.snap.decoded = .command (.writeall w n b v)) (hp : r.ph ≠ .check) : writeallInv w n b r s := by
  obtain ⟨-, -, ⟨hph, -⟩ | ⟨w', n', b', hd', -⟩ | ⟨w', n', b', hd', -⟩ | ⟨w', n', b', v', hd', hc⟩⟩ := h
  case inl => exact absurd hph hp
  all_goals simp only [hd, Decoded.command.injEq, Instr.writeall.injEq, reduceCtorEq] at hd'
  obtain ⟨rfl, rfl, rfl, -⟩ := hd'
  exact hc

/-- A running command reports no entry in both bitmaps (41_multitarget.md R148). -/
theorem reports_disjoint_of_runInv (h : runInv r s) : s.wok &&& s.wfail = 0#64 := by
  obtain ⟨-, -, ⟨-, -, hok, -⟩ | ⟨w, n, b, -, -, hok, -⟩ | ⟨w, n, b, -, -, hok, -⟩ | ⟨w, n, b, v, -, -, hand, -⟩⟩ := h
  case inr.inr.inr => exact hand
  all_goals rw [hok, BitVec.zero_and]

end Run

end Sys2Proof.Machine
end

section
/-! PROOFS. What keeps the invariant without the unit moving: changes of the host's own side, host accesses and reset. -/

namespace Sys2Proof.Machine

/-! ### Changes the unit's part of the invariant does not see -/

/-- `t` holds what the unit's part of the invariant reads in `s`, the slots left aside. -/
structure SameForUnit (s t : State) : Prop where
  cfg : t.cfg = s.cfg
  unit : t.unit = s.unit
  snap : snapshot t.cmd t = snapshot s.cmd s
  status : t.status = s.status
  wok : t.wok = s.wok
  wfail : t.wfail = s.wfail

theorem IdleInv.congr {s t : State} (h : IdleInv s) (hst : t.status = s.status) (hok : t.wok = s.wok)
    (hfail : t.wfail = s.wfail) : IdleInv t where
  notBusy := hst ▸ h.notBusy
  errLegal := hst ▸ h.errLegal
  errAlone := hst ▸ h.errAlone
  triLegal := hst ▸ h.triLegal
  mixedResult := hst ▸ h.mixedResult
  trueResult := hst ▸ h.trueResult
  partialIff := hst ▸ hfail ▸ h.partialIff
  reportDisjoint := hok ▸ hfail ▸ h.reportDisjoint

section Congr
variable {s t : State} {r : RunState} {w : Width} {n : BitVec 6} {b : BitVec 16} (hs : SameForUnit s t)
  (hmem : ∀ a ∈ r.snap.handles, slotLookup t.slots a.toNat = slotLookup s.slots a.toNat)
include hs hmem

/-- The accumulators rest on the listed slots alone. -/
theorem consensusInv_congr (h : consensusInv w n b r s) : consensusInv w n b r t := by
  have hview : viewBits w b.toNat (r.snap.handles.take r.i) t = viewBits w b.toNat (r.snap.handles.take r.i) s :=
    List.map_congr_left fun a ha => by rw [memRead, memRead, hmem a (List.mem_of_mem_take ha)]
  unfold consensusInv at h ⊢
  rw [hs.cfg, hs.wok, hs.wfail, hview]
  exact h

/-- Between a load and its store, tmp rests on a listed slot. -/
theorem writeallInv_congr (h : writeallInv w n b r s) : writeallInv w n b r t := by
  obtain ⟨hview, hand, hor, hph⟩ := h
  refine ⟨by rw [hs.cfg]; exact hview, by rw [hs.wok, hs.wfail]; exact hand,
    by rw [hs.wok, hs.wfail]; exact hor, ?_⟩
  cases hp : r.ph with
  | check => simp only [hp] at hph
  | load => simpa only [hp] using hph
  | finish => simpa only [hp] using hph
  | store =>
    simp only [hp] at hph ⊢
    obtain ⟨hi, a, ha, htmp⟩ := hph
    exact ⟨hi, a, ha, by rw [htmp, memRead, memRead, hmem a (List.mem_of_getElem? ha)]⟩

end Congr

/-- While a view command runs, every handle of its snapshot is listed (70_reset_and_hazards.md R210). -/
theorem runningViewLists_of_mem {s : State} {r : RunState} {w : Width} {n : BitVec 6} {b : BitVec 16}
    {a : BitVec 8} (hu : s.unit = .run r)
    (hd : IsConsensus r.snap.decoded w n b ∨ ∃ v, r.snap.decoded = .command (.writeall w n b v))
    (ha : a ∈ r.snap.handles) : runningViewLists a s = true := by
  obtain (hd | hd) | ⟨v, hd⟩ := hd <;> simp only [runningViewLists, hu, hd, List.contains_iff_mem, ha]

/-- The unit's part of the invariant rests on the registers of `SameForUnit` and on the slots the running view lists. -/
theorem unitInv_congr {s t : State} (h : unitInv s) (hs : SameForUnit s t)
    (hmem : ∀ a, runningViewLists a s = true → slotLookup t.slots a.toNat = slotLookup s.slots a.toNat) :
    unitInv t := by
  cases hu : s.unit with
  | idle =>
    have hidle := (unitInv_of_idle hu).mp h
    exact (unitInv_of_idle (hs.unit.trans hu)).mpr (hidle.congr hs.status hs.wok hs.wfail)
  | run r =>
    obtain ⟨hsnap, hstatus, hph⟩ := (unitInv_of_run hu).mp h
    refine (unitInv_of_run (hs.unit.trans hu)).mpr ⟨hsnap.trans hs.snap.symm, hs.status.trans hstatus, ?_⟩
    obtain ⟨hp, hi, hok, hfail⟩ | ⟨w, n, b, hd, hc⟩ | ⟨w, n, b, hd, hc⟩ | ⟨w, n, b, v, hd, hc⟩ := hph
    · exact .inl ⟨hp, hi, hs.wok.trans hok, hs.wfail.trans hfail⟩
    · have hl := fun a ha => hmem a (runningViewLists_of_mem hu (.inl (.inl hd)) ha)
      exact .inr (.inl ⟨w, n, b, hd, consensusInv_congr hs hl hc⟩)
    · have hl := fun a ha => hmem a (runningViewLists_of_mem hu (.inl (.inr hd)) ha)
      exact .inr (.inr (.inl ⟨w, n, b, hd, consensusInv_congr hs hl hc⟩))
    · have hl := fun a ha => hmem a (runningViewLists_of_mem hu (.inr ⟨v, hd⟩) ha)
      exact .inr (.inr (.inr ⟨w, n, b, v, hd, writeallInv_congr hs hl hc⟩))

theorem Inv.withTurns {s : State} (h : Inv s) (l : List Turn) : Inv (s.withTurns l) :=
  ⟨h.slotsCanonical, h.slotsFit, h.tgtLength, h.statusReserved, h.coutContainer,
    unitInv_congr h.unitLegal ⟨rfl, rfl, rfl, rfl, rfl, rfl⟩ fun _ _ => rfl⟩

theorem Inv.withHostRead {s : State} (h : Inv s) (v : BitVec 256) : Inv (s.withHostRead v) :=
  ⟨h.slotsCanonical, h.slotsFit, h.tgtLength, h.statusReserved, h.coutContainer,
    unitInv_congr h.unitLegal ⟨rfl, rfl, rfl, rfl, rfl, rfl⟩ fun _ _ => rfl⟩

/-! ### Host accesses -/

/-- A host store to a slot that no running view lists (70_reset_and_hazards.md R210). -/
theorem Inv.withSlot {s : State} (h : Inv s) {a : BitVec 8} {w : Width} (hw : s.cfg.slotCap a.toNat = some w)
    (hl : runningViewLists a s = false) (c : BitVec w.bits) : Inv (s.withSlot a c) := by
  refine ⟨slotUpdate_wf h.slotsCanonical _ _, slotsFit_update h.slotsCanonical h.slotsFit hw c, h.tgtLength,
    h.statusReserved, h.coutContainer, unitInv_congr h.unitLegal ⟨rfl, rfl, rfl, rfl, rfl, rfl⟩ fun x hx => ?_⟩
  have hne : x ≠ a := fun e => by simp [e, hl] at hx
  exact slotLookup_update_other _ fun e => hne (BitVec.eq_of_toNat_eq e)

/-- While the unit is idle, the operand registers may hold anything, with NMAX targets (10_state.md R33). -/
theorem Inv.withOperands {s : State} (h : Inv s) (hu : s.unit = .idle) {tag : BitVec 3} {c0 c1 c2 c3 : BitVec 64}
    {l : List (BitVec 8)} (hl : l.length = s.tgt.length) :
    Inv { s with cinTag := tag, cin0 := c0, cin1 := c1, cin2 := c2, cin3 := c3, tgt := l } :=
  ⟨h.slotsCanonical, h.slotsFit, hl.trans h.tgtLength, h.statusReserved, h.coutContainer,
    (unitInv_of_idle (by exact hu)).mpr ((h.atRest hu).congr rfl rfl rfl)⟩

/-- Command start puts the unit in Check with the snapshot of the operands (10_state.md R43). -/
theorem Inv.commandStart {s : State} (h : Inv s) (c : BitVec 32) : Inv (commandStart c s) :=
  ⟨h.slotsCanonical, h.slotsFit, h.tgtLength, by rw [commandStart_status]; decide, h.coutContainer,
    (unitInv_of_run rfl).mpr ⟨rfl, rfl, .inl ⟨rfl, rfl, rfl, rfl⟩⟩⟩

/-- A register write that is allowed finds the unit idle, and starts a command or writes an operand or nothing. -/
theorem Inv.writeReg {s : State} (h : Inv s) (hb : statusBusy s.status = false) (n : BitVec 8) (v : BitVec 64) :
    Inv (writeReg n v s) := by
  have hu := h.idle_of_not_busy hb
  unfold Machine.writeReg
  cases regOf s.cfg.nmax n with
  | cmd => exact h.commandStart _
  | cinTag | cin0 | cin1 | cin2 | cin3 => exact h.withOperands hu rfl
  | tgt i => exact h.withOperands hu List.length_set
  | status | coutTag | cout0 | cout1 | cout2 | cout3 | wok | wfail | reserved => exact h

theorem hostAccess_keeps_inv {s t : State} {a : HostAccess} (h : Inv s) (hstep : hostAccess a s = .next t) :
    Inv t := by
  cases a with
  | readReg n =>
    injection hstep with e
    exact e ▸ h.withHostRead _
  | writeReg n v =>
    simp only [hostAccess] at hstep
    split at hstep
    case isTrue => cases hstep
    case isFalse hb =>
      injection hstep with e
      exact e ▸ h.writeReg (by simpa using hb) n v
  | loadSlot x =>
    obtain ⟨w, -, -, rfl⟩ := hostSlot_next hstep
    exact h.withHostRead _
  | storeSlot x v =>
    obtain ⟨w, hw, hl, rfl⟩ := hostSlot_next hstep
    exact h.withSlot hw hl _
  | storeSigned x z =>
    obtain ⟨w, hw, hl, rfl⟩ := hostSlot_next hstep
    exact h.withSlot hw hl _

/-! ### Reset -/

/-- A unit whose STATUS and bitmaps read 0 is at rest (70_reset_and_hazards.md R200). -/
theorem idleInv_of_zero {s : State} (hst : s.status = 0#16) (hok : s.wok = 0#64) (hfail : s.wfail = 0#64) :
    IdleInv s := by
  constructor <;> simp only [hst, hok, hfail] <;> decide

theorem Inv.resetBlock {s : State} (h : Inv s) : Inv (resetBlock s) where
  slotsCanonical := h.slotsCanonical
  slotsFit := h.slotsFit
  tgtLength := List.length_replicate
  statusReserved := by rw [resetBlock_status]; decide
  coutContainer := ⟨.w8, rfl, by show (0#64 ++ 0#64 ++ 0#64 ++ 0#64).toNat < 2 ^ 8; decide⟩
  unitLegal := (unitInv_of_idle rfl).mpr (idleInv_of_zero rfl rfl rfl)

end Sys2Proof.Machine
end

section
/-! PROOFS. Every unit step keeps the invariant, instruction by instruction and phase by phase (41_multitarget.md R151,
R152), and with it every step of the machine. -/

namespace Sys2Proof.Machine

/-! ### Commands that end -/

/-- A STATUS of a command that has ended without an error: ERR = 0, and the results agree (41_multitarget.md R137,
R138). -/
structure EndsOk (st : BitVec 16) : Prop where
  notBusy : statusBusy st = false
  errZero : statusErr st = 0#3
  reserved : statusReserved st = 0#6
  triLegal : statusTri st ≠ 3#2
  mixedResult : statusTri st = 2#2 ∨ statusDis st = true → statusAll st = false ∧ statusAny st = true
  trueResult : statusTri st = 1#2 → statusAll st = true ∧ statusAny st = true

/-- GET writes BIT alone (40_container.md R110). -/
theorem endsOk_getStatus (x : Bool) : EndsOk (getStatus x startStatus) := by
  cases x <;> constructor <;> decide

/-- The accumulators of a reduction over at least one entry: ALL gives b_0, and b_0 gives ANY (41_multitarget.md
R137). -/
structure AccConsistent (acc : Acc) : Prop where
  first_of_all : acc.all = true → acc.b0 = true
  any_of_first : acc.b0 = true → acc.any = true

theorem accConsistent_accOf {bs : List Bool} (h : bs ≠ []) : AccConsistent (accOf bs) := by
  obtain ⟨b, bs, rfl⟩ := List.exists_cons_of_ne_nil h
  constructor <;> cases b <;> simp [accOf]

/-- A disagreement is ANY without ALL (41_multitarget.md R137). -/
theorem AccConsistent.all_any_of_dis {acc : Acc} (h : AccConsistent acc) (hd : accDis acc = true) :
    acc.all = false ∧ acc.any = true := by
  have hne : acc.all ≠ acc.any := by simpa [accDis] using hd
  have hle : acc.all = true → acc.any = true := h.any_of_first ∘ h.first_of_all
  cases hall : acc.all <;> simp_all

/-- With no disagreement and b_0 = 1, every bit is 1 (41_multitarget.md R137). -/
theorem AccConsistent.all_any_of_agree {acc : Acc} (h : AccConsistent acc) (hd : ¬ accDis acc = true)
    (hb : acc.b0 = true) : acc.all = true ∧ acc.any = true := by
  have heq : acc.all = acc.any := by simpa [accDis] using hd
  exact ⟨heq.trans (h.any_of_first hb), h.any_of_first hb⟩

/-- TRI as the accumulators give it (41_multitarget.md R138). -/
theorem triBits_accTri (acc : Acc) :
    triBits (accTri acc) = if accDis acc = true then 2#2 else if acc.b0 = true then 1#2 else 0#2 := by
  unfold accTri
  split_ifs <;> rfl

/-- READ's STATUS agrees with itself: mixed has ALL = 0 and ANY = 1, true has both 1 (41_multitarget.md R138). -/
theorem endsOk_readStatus {acc : Acc} (h : AccConsistent acc) : EndsOk (readStatus acc startStatus) := by
  obtain ⟨hbusy, herr, -, htri, hdis, hall, hany, hres⟩ := readStatus_fields acc startStatus
  obtain ⟨-, -, -, -, hdis0, -, -, hres0⟩ := startStatus_fields
  rw [triBits_accTri] at htri
  refine ⟨hbusy, herr, hres.trans hres0, ?_, ?_, ?_⟩ <;> rw [htri]
  · split_ifs <;> decide
  · rw [hdis, hdis0, hall, hany]
    split_ifs with hd hb
    · exact fun _ => h.all_any_of_dis hd
    · simp
    · simp
  · rw [hall, hany]
    split_ifs with hd hb
    · simp
    · exact fun _ => h.all_any_of_agree hd hb
    · simp

/-- HASDIS's STATUS agrees with itself: DIS = 1 has ALL = 0 and ANY = 1 (41_multitarget.md R137). -/
theorem endsOk_hasdisStatus {acc : Acc} (h : AccConsistent acc) : EndsOk (hasdisStatus acc startStatus) := by
  obtain ⟨hbusy, herr, -, htri, hdis, hall, hany, hres⟩ := hasdisStatus_fields acc startStatus
  obtain ⟨-, -, -, htri0, -, -, -, hres0⟩ := startStatus_fields
  refine ⟨hbusy, herr, hres.trans hres0, ?_, ?_, ?_⟩ <;> rw [htri, htri0]
  · decide
  · rw [hdis, hall, hany]
    rintro (h2 | hd)
    · simp at h2
    · exact h.all_any_of_dis hd
  · simp

section Ends
variable {s : State} (h : Inv s)
include h

/-- A command that ends without an error and has reported nothing. -/
theorem Inv.finishWith {st : BitVec 16} (hst : EndsOk st) (hok : s.wok = 0#64) (hfail : s.wfail = 0#64) :
    Inv (s.finishWith st) where
  slotsCanonical := h.slotsCanonical
  slotsFit := h.slotsFit
  tgtLength := h.tgtLength
  statusReserved := hst.reserved
  coutContainer := h.coutContainer
  unitLegal := (unitInv_of_idle rfl).mpr
    { notBusy := hst.notBusy
      errLegal := by simp [hst.errZero]
      errAlone := fun hne => absurd hst.errZero hne
      triLegal := hst.triLegal
      mixedResult := hst.mixedResult
      trueResult := hst.trueResult
      partialIff := by simp [hst.errZero, hfail]
      reportDisjoint := by simp [hok] }

/-- A command that ends with code `e`, where PartialWriteError is the code exactly of a failed entry (41_multitarget.md
R149, 60_exceptions.md R177). -/
theorem Inv.raiseError {e : ErrCode} (hstatus : s.status = startStatus)
    (he : e = .partialWrite ↔ s.wfail ≠ 0#64) (hdisj : s.wok &&& s.wfail = 0#64) : Inv (raiseError e s) where
  slotsCanonical := h.slotsCanonical
  slotsFit := h.slotsFit
  tgtLength := h.tgtLength
  statusReserved := by simp [h.statusReserved]
  coutContainer := h.coutContainer
  unitLegal := by
    obtain ⟨-, -, hbit, htri, hdis, hall, hany, -⟩ := startStatus_fields
    refine (unitInv_of_idle rfl).mpr ?_
    constructor
    case partialIff =>
      rw [raiseError_status, endStatus_err, raiseError_wfail, ← he]
      cases e <;> decide
    case errLegal => rw [raiseError_status, endStatus_err]; cases e <;> decide
    case reportDisjoint => exact hdisj
    all_goals simp [hstatus, hbit, htri, hdis, hall, hany]

/-- An error of a check leaves the bitmaps at 0 (60_exceptions.md R177). -/
theorem Inv.raiseError_of_check {r : RunState} {e : ErrCode} (hu : s.unit = .run r) (hp : r.ph = .check)
    (he : e ≠ .partialWrite) : Inv (Machine.raiseError e s) := by
  obtain ⟨-, hstatus, -⟩ := h.running hu
  obtain ⟨-, hok, hfail⟩ := runInv_check (h.running hu) hp
  exact h.raiseError hstatus (by simp [he, hfail]) (by simp [hok])

end Ends

/-! ### The checks -/

theorem containerCheck_ne_partialWrite {w : Width} {b : Nat} {snap : Snapshot} {e : ErrCode}
    (h : containerCheck w b snap = some e) : e ≠ .partialWrite := by
  rintro rfl
  unfold containerCheck at h
  split_ifs at h <;> simp at h

theorem viewCheck_ne_partialWrite {cfg : Config} {w : Width} {n b : Nat} {snap : Snapshot} {e : ErrCode}
    (h : viewCheck cfg w n b snap = some e) : e ≠ .partialWrite := by
  rintro rfl
  unfold viewCheck at h
  split_ifs at h <;> simp at h

/-- WRITEALL's code is PartialWriteError exactly where an entry has failed (41_multitarget.md R149). -/
theorem writeallErr_eq_partialWrite {x : BitVec 64} : writeallErr x = .partialWrite ↔ x ≠ 0#64 := by
  unfold writeallErr
  split_ifs with h0 <;> simp [h0]

/-- The unit goes on with a run state that the invariant allows. -/
theorem Inv.withRun {s : State} {r : RunState} (h : Inv s) (hr : Machine.runInv r s) : Inv (s.withRun r) :=
  ⟨h.slotsCanonical, h.slotsFit, h.tgtLength, h.statusReserved, h.coutContainer, (unitInv_of_run rfl).mpr hr⟩

/-! ### GET and SET -/

theorem execGet_keeps_inv {s t : State} {w : Width} {b : BitVec 16} (h : Inv s)
    (hstep : exec (.get w b) s = .next t) : Inv t := by
  obtain ⟨r, hu, hp, ⟨e, he, rfl⟩ | ⟨-, rfl⟩⟩ := execGet_next hstep
  · exact h.raiseError_of_check hu hp (containerCheck_ne_partialWrite he)
  · obtain ⟨-, hstatus, -⟩ := h.running hu
    obtain ⟨-, hok, hfail⟩ := runInv_check (h.running hu) hp
    exact h.finishWith (hstatus ▸ endsOk_getStatus _) hok hfail

/-- COUT and COUTTAG take a container of the command's width (40_container.md R111). -/
theorem Inv.withCout {s : State} (h : Inv s) {w : Width} (c : BitVec w.bits) :
    Inv (s.withCout (wcOf w) (c.setWidth 256)) :=
  ⟨h.slotsCanonical, h.slotsFit, h.tgtLength, h.statusReserved,
    ⟨w, rfl, by rw [coutValue_withCout]; exact toNat_setWidth_256_lt c⟩,
    unitInv_congr h.unitLegal ⟨rfl, rfl, rfl, rfl, rfl, rfl⟩ fun _ _ => rfl⟩

theorem execSet_keeps_inv {s t : State} {w : Width} {b : BitVec 16} {v : Bool} (h : Inv s)
    (hstep : exec (.set w b v) s = .next t) : Inv t := by
  obtain ⟨r, hu, hp, ⟨e, he, rfl⟩ | ⟨-, rfl⟩⟩ := execSet_next hstep
  · exact h.raiseError_of_check hu hp (containerCheck_ne_partialWrite he)
  · exact (h.withCout _).raiseError_of_check hu hp (show ErrCode.ok ≠ .partialWrite by decide)

/-! ### READ and HASDIS -/

section Consensus
variable {s : State} {r : RunState} {w : Width} {n : BitVec 6} {b : BitVec 16}

/-- A view that passes its check goes on to Load at entry 0 (41_multitarget.md R151). -/
theorem consensusInv_start (hv : viewCheck s.cfg w n.toNat b.toNat r.snap = none) (hok : s.wok = 0#64)
    (hfail : s.wfail = 0#64) : consensusInv w n b { r with ph := .load, i := 0 } s :=
  ⟨hv, hok, hfail, Nat.pos_of_ne_zero (viewCheck_eq_none.mp hv).1, fun h0 => absurd h0 (Nat.lt_irrefl 0)⟩

/-- The accumulators after the Load of entry `i` are the reduction of the entries up to it. -/
theorem accStep_load {a : BitVec 8} (hb : b.toNat < w.bits) (ha : r.snap.handles[r.i]? = some a)
    (hacc : 0 < r.i → r.acc = accOf (viewBits w b.toNat (r.snap.handles.take r.i) s)) :
    accStep r.i r.acc (bitGet w (memRead w a s) b.toNat) =
      accOf (viewBits w b.toNat (r.snap.handles.take (r.i + 1)) s) := by
  obtain ⟨hlt, hget⟩ := List.getElem?_eq_some_iff.mp ha
  have htake : viewBits w b.toNat (r.snap.handles.take (r.i + 1)) s =
      viewBits w b.toNat (r.snap.handles.take r.i) s ++ [bitGet w (memRead w a s) b.toNat] := by
    rw [List.take_succ_eq_append_getElem hlt, hget, bitGet_eq_getLsbD _ hb]
    simp [viewBits]
  have hlen : (viewBits w b.toNat (r.snap.handles.take r.i) s).length = r.i := by
    simp [viewBits]; omega
  rw [htake, accOf_append, hlen]
  obtain hi | hi := Nat.eq_zero_or_pos r.i
  · rw [hi]; rfl
  · rw [hacc hi]

/-- The Load of entry `i` keeps the accumulators' meaning, and ends at the last entry or at a disagreement
(41_multitarget.md R139, R151). -/
theorem consensusInv_load {a : BitVec 8} {acc : Acc} (h : consensusInv w n b r s) (hp : r.ph = .load)
    (ha : r.snap.handles[r.i]? = some a) (hacc : acc = accStep r.i r.acc (bitGet w (memRead w a s) b.toNat)) :
    consensusInv w n b { r with
      i := r.i + 1, acc := acc, ph := if r.i + 1 = n.toNat ∨ accDis acc = true then .finish else .load } s := by
  obtain ⟨hv, hok, hfail, hph⟩ := h
  simp only [hp] at hph
  obtain ⟨hi, hsofar⟩ := hph
  obtain ⟨-, hb, -⟩ := viewCheck_eq_none.mp hv
  have hnew := hacc.trans (accStep_load hb ha fun h0 => (hsofar h0).1)
  refine ⟨hv, hok, hfail, ?_⟩
  by_cases hend : r.i + 1 = n.toNat ∨ accDis acc = true
  · simp only [if_pos hend]
    exact ⟨Nat.succ_pos _, hi, hnew, hend⟩
  · simp only [if_neg hend]
    obtain ⟨hmore, hagree⟩ := not_or.mp hend
    exact ⟨by omega, fun _ => ⟨hnew, by simpa using hagree⟩⟩

/-- At Finish the accumulators hold the reduction of at least one entry. -/
theorem accConsistent_finish (h : consensusInv w n b r s) (hp : r.ph = .finish)
    (hlen : r.snap.handles.length = n.toNat) : AccConsistent r.acc := by
  obtain ⟨-, -, -, hph⟩ := h
  simp only [hp] at hph
  obtain ⟨hpos, hle, hacc, -⟩ := hph
  rw [hacc]
  refine accConsistent_accOf (List.ne_nil_of_length_pos ?_)
  simp [viewBits]
  omega

/-- READ and HASDIS, by phase; `fin` is what Finish makes of STATUS. -/
theorem consensusStep_keeps_inv {t : State} {fin : Acc → BitVec 16 → BitVec 16} (h : Inv s) (hu : s.unit = .run r)
    (hd : IsConsensus r.snap.decoded w n b) (hfin : ∀ acc, AccConsistent acc → EndsOk (fin acc startStatus))
    (hstep : consensusStep w n b s fin = .next t) : Inv t := by
  have hr := h.running hu
  obtain ⟨hsnap, hstatus, -⟩ := h.running hu
  obtain ⟨r', hu', hcase⟩ := consensusStep_next hstep
  obtain rfl : r = r' := UnitState.run.inj (hu.symm.trans hu')
  obtain ⟨hp, e, he, rfl⟩ | ⟨hp, hv, rfl⟩ | ⟨hp, a, ha, acc, hacc, rfl⟩ | ⟨hp, rfl⟩ := hcase
  · exact h.raiseError_of_check hu hp (viewCheck_ne_partialWrite he)
  · obtain ⟨-, hok, hfail⟩ := runInv_check hr hp
    exact h.withRun (runInv_of_consensusInv hsnap hstatus hd (consensusInv_start hv hok hfail))
  · have hc := consensusInv_of_runInv hr hd (by simp [hp])
    exact h.withRun (runInv_of_consensusInv hsnap hstatus hd (consensusInv_load hc hp ha hacc))
  · have hc := consensusInv_of_runInv hr hd (by simp [hp])
    have hdec : IsConsensus (decode s.cfg.nmax s.cmd) w n b := by rw [hsnap] at hd; exact hd
    have hlen : r.snap.handles.length = n.toNat := hsnap ▸ snapshot_handles_length h.tgtLength hdec.entries
    have hacc := accConsistent_finish hc hp hlen
    obtain ⟨-, hok, hfail, -⟩ := hc
    exact h.finishWith (hstatus ▸ hfin _ hacc) hok hfail

end Consensus

/-! ### WRITEALL -/

section Writeall
variable {s : State} {r : RunState} {w : Width} {n : BitVec 6} {b : BitVec 16} {v : Bool}

/-- A view that passes its check goes on to Load at entry 0 (41_multitarget.md R152). -/
theorem writeallInv_start (hv : viewCheck s.cfg w n.toNat b.toNat r.snap = none) (hok : s.wok = 0#64)
    (hfail : s.wfail = 0#64) : writeallInv w n b { r with ph := .load, i := 0 } s := by
  have hrep : ReportsBelow 0 s.wok s.wfail := by rw [hok, hfail]; exact reportsBelow_zero
  exact ⟨hv, hrep.1, hrep.2, Nat.pos_of_ne_zero (viewCheck_eq_none.mp hv).1⟩

/-- The Load of entry `i` puts the slot's container in tmp (41_multitarget.md R152). -/
theorem writeallInv_load {a : BitVec 8} (h : writeallInv w n b r s) (hp : r.ph = .load)
    (ha : r.snap.handles[r.i]? = some a) :
    writeallInv w n b { r with tmp := (memRead w a s).setWidth 256, ph := .store } s := by
  obtain ⟨hv, hand, hor, hph⟩ := h
  simp only [hp] at hph
  exact ⟨hv, hand, hor, hph, a, ha, rfl⟩

/-- The Store of entry `i` adds that entry to the report and ends at the last one (41_multitarget.md R147, R152). -/
theorem writeallInv_store {t : State} (h : writeallInv w n b r s) (hp : r.ph = .store) (hcfg : t.cfg = s.cfg)
    (hrep : ReportsBelow (r.i + 1) t.wok t.wfail) :
    writeallInv w n b { r with i := r.i + 1, ph := if r.i + 1 < n.toNat then .load else .finish } t := by
  obtain ⟨hv, -, -, hph⟩ := h
  simp only [hp] at hph
  obtain ⟨hi, -⟩ := hph
  refine ⟨by rw [hcfg]; exact hv, hrep.1, hrep.2, ?_⟩
  by_cases hmore : r.i + 1 < n.toNat
  · simpa only [if_pos hmore] using hmore
  · simp only [if_neg hmore]
    omega

/-- A Store may leave any legal slots and any answers to come (20_memory.md R63). -/
theorem Inv.afterStore (h : Inv s) (hu : s.unit = .run r) (hd : r.snap.decoded = .command (.writeall w n b v))
    (hp : r.ph = .store) {m : SlotMemory} {ok fail : BitVec 64} {as : List Bool} {d : Nat} (hwf : Memory.wf m)
    (hfit : Machine.slotsFit s.cfg m) (hrep : ReportsBelow (r.i + 1) ok fail) :
    Inv { s with
      slots := m, wok := ok, wfail := fail, answers := as, draws := d,
      unit := .run { r with i := r.i + 1, ph := if r.i + 1 < n.toNat then .load else .finish } } := by
  obtain ⟨hsnap, hstatus, -⟩ := h.running hu
  have hc := writeallInv_of_runInv (h.running hu) hd (by simp [hp])
  refine ⟨hwf, hfit, h.tgtLength, h.statusReserved, h.coutContainer, (unitInv_of_run rfl).mpr ?_⟩
  exact ⟨hsnap, hstatus, .inr (.inr (.inr ⟨w, n, b, v, hd, writeallInv_store hc hp rfl hrep⟩))⟩

/-- WRITEALL, Store at entry `i`, for either answer of the storage oracle (41_multitarget.md R152). -/
theorem Inv.storeEntry {a : BitVec 8} (h : Inv s) (hu : s.unit = .run r)
    (hd : r.snap.decoded = .command (.writeall w n b v)) (hp : r.ph = .store)
    (ha : r.snap.handles[r.i]? = some a) (c : BitVec w.bits) :
    Inv ((storeEntry w r.i a c s).withRun
      { r with i := r.i + 1, ph := if r.i + 1 < n.toNat then .load else .finish }) := by
  obtain ⟨hv, hand, hor, hph⟩ := writeallInv_of_runInv (h.running hu) hd (by simp [hp])
  simp only [hp] at hph
  have hrep : ReportsBelow r.i s.wok s.wfail := ⟨hand, hor⟩
  have hi : r.i < 64 := Nat.lt_trans hph.1 n.isLt
  obtain ⟨-, -, hcaps⟩ := viewCheck_eq_none.mp hv
  have hcap := hcaps a (List.mem_of_getElem? ha)
  obtain ⟨-, e⟩ | ⟨-, e⟩ := storeEntry_cases w r.i a c s
  · rw [e]
    exact h.afterStore hu hd hp (slotUpdate_wf h.slotsCanonical _ _)
      (slotsFit_update h.slotsCanonical h.slotsFit hcap c) (hrep.report hi)
  · rw [e]
    exact h.afterStore hu hd hp h.slotsCanonical h.slotsFit (hrep.symm.report hi).symm

theorem execWriteall_keeps_inv {t : State} (h : Inv s) (hu : s.unit = .run r)
    (hd : r.snap.decoded = .command (.writeall w n b v)) (hstep : exec (.writeall w n b v) s = .next t) : Inv t := by
  have hr := h.running hu
  obtain ⟨hsnap, hstatus, -⟩ := h.running hu
  obtain ⟨r', hu', hcase⟩ := execWriteall_next hstep
  obtain rfl : r = r' := UnitState.run.inj (hu.symm.trans hu')
  obtain ⟨hp, e, he, rfl⟩ | ⟨hp, hv, rfl⟩ | ⟨hp, a, ha, rfl⟩ | ⟨hp, a, ha, rfl⟩ | ⟨hp, rfl⟩ := hcase
  · exact h.raiseError_of_check hu hp (viewCheck_ne_partialWrite he)
  · obtain ⟨-, hok, hfail⟩ := runInv_check hr hp
    have hc := writeallInv_start hv hok hfail
    exact h.withRun ⟨hsnap, hstatus, .inr (.inr (.inr ⟨w, n, b, v, hd, hc⟩))⟩
  · have hc := writeallInv_load (writeallInv_of_runInv hr hd (by simp [hp])) hp ha
    exact h.withRun ⟨hsnap, hstatus, .inr (.inr (.inr ⟨w, n, b, v, hd, hc⟩))⟩
  · exact h.storeEntry hu hd hp ha _
  · exact h.raiseError hstatus writeallErr_eq_partialWrite (reports_disjoint_of_runInv hr)

end Writeall

/-! ### Every step -/

theorem exec_keeps_inv {s t : State} {r : RunState} {i : Instr} (h : Inv s) (hu : s.unit = .run r)
    (hd : r.snap.decoded = .command i) (hstep : exec i s = .next t) : Inv t := by
  cases i with
  | get w b => exact execGet_keeps_inv h hstep
  | set w b v => exact execSet_keeps_inv h hstep
  | read w n b => exact consensusStep_keeps_inv h hu (.inl hd) (fun _ => endsOk_readStatus) hstep
  | hasdis w n b => exact consensusStep_keeps_inv h hu (.inr hd) (fun _ => endsOk_hasdisStatus) hstep
  | writeall w n b v => exact execWriteall_keeps_inv h hu hd hstep

theorem unitStep_keeps_inv {s t : State} (h : Inv s) (hstep : unitStep s = .next t) : Inv t := by
  obtain ⟨-, rfl⟩ | ⟨r, hu, ⟨why, -, hp, rfl⟩ | ⟨i, hd, hexec⟩⟩ := unitStep_next hstep
  · exact h
  · exact h.raiseError_of_check hu hp (by decide)
  · exact exec_keeps_inv h hu hd hexec

theorem waitStep_keeps_inv {s t : State} (h : Inv s) (hstep : waitStep s = .next t) : Inv t := by
  unfold waitStep at hstep
  split at hstep
  · exact unitStep_keeps_inv ((h.withHostRead _).withTurns _) hstep
  · injection hstep with e
    exact e ▸ h.withHostRead _

theorem takeTurn_keeps_inv {s t : State} {x : Turn} (h : Inv s) (hstep : takeTurn x s = .next t) : Inv t := by
  cases x with
  | unit => exact unitStep_keeps_inv h hstep
  | host a => exact hostAccess_keeps_inv h hstep
  | wait => exact waitStep_keeps_inv h hstep
  | reset =>
    injection hstep with e
    exact e ▸ h.resetBlock

/-- Settles O4: the turn is the unit's, the host's, a wait or a reset, and each keeps the invariant. -/
theorem everyStepKeepsInvariant : Obligations.EveryStepKeepsInvariant := by
  intro s t h hstep
  obtain ⟨-, hunit⟩ | ⟨x, rest, -, hturn⟩ := step_next hstep
  · exact unitStep_keeps_inv h hunit
  · exact takeTurn_keeps_inv (h.withTurns rest) hturn

/-- Settles O5: a running unit has STATUS as its command start wrote it, and its bitmaps report no entry twice. -/
theorem busyExactlyWhileRunning : Obligations.BusyExactlyWhileRunning := by
  intro s h
  refine ⟨h.busy_iff, fun hu => ?_⟩
  cases hs : s.unit with
  | idle => exact absurd hs hu
  | run r =>
    obtain ⟨-, hstatus, -⟩ := h.running hs
    refine ⟨?_, reports_disjoint_of_runInv (h.running hs)⟩
    show s.status.setWidth 64 = 0x0001#64
    rw [hstatus]
    rfl

end Sys2Proof.Machine
end

section
/-! PROOFS. The slots: signed storage, repeated stores, the store of WRITEALL, and the slots no command lists
(20_memory.md R63, R64, R69, R72; 41_multitarget.md R152, R155). -/

namespace Sys2Proof.Machine

/-! ### Signed storage -/

/-- Settles O26: `ofSigned` reduces modulo 2^W, and the signed value of a container names its own bits. -/
theorem signedStorageKeepsBits : Obligations.SignedStorageKeepsBits :=
  fun w z _ => ⟨toNat_ofSigned w z, BitVec.ofInt_toInt⟩

/-! ### Stores -/

/-- An accepted MemWrite replaces the slot whole (20_memory.md R63). -/
theorem memWrite_of_accepted {w : Width} {a : BitVec 8} {v : BitVec w.bits} {s : State}
    (h : (memWrite w a v s).2 = true) : (memWrite w a v s).1 = s.afterDraw.withSlot a v := by
  obtain ⟨-, e⟩ | ⟨-, e⟩ := memWrite_cases w a v s
  · rw [e]
  · rw [e] at h
    exact absurd h Bool.false_ne_true

/-- Settles O27: the second store updates the slot to what it already holds, and a repeated update is one update. -/
theorem repeatedStoreIsOneStore : Obligations.RepeatedStoreIsOneStore := by
  intro s w a v hwf hfirst hsecond
  have hread : memRead w a (memWrite w a v s).1 = v := by
    rw [memWrite_of_accepted hfirst]
    exact memRead_withSlot_same hwf a v
  have hslots : (memWrite w a v (memWrite w a v s).1).1.slots = (memWrite w a v s).1.slots := by
    rw [memWrite_of_accepted hsecond, memWrite_of_accepted hfirst]
    exact slotUpdate_idem hwf a.toNat (v.setWidth 256)
  exact ⟨hread, (memRead_congr hslots w a).trans hread, hslots⟩

/-- The store of an entry leaves every other slot as it was, whatever the answer (20_memory.md R72). -/
theorem slotLookup_storeEntry_other {w : Width} (i : Nat) {a : BitVec 8} (v : BitVec w.bits) (s : State) {a' : Nat}
    (h : a' ≠ a.toNat) : slotLookup (storeEntry w i a v s).slots a' = slotLookup s.slots a' := by
  obtain ⟨-, e⟩ | ⟨-, e⟩ := storeEntry_cases w i a v s
  · rw [e]
    exact slotLookup_update_other _ h
  · rw [e]

/-! ### WRITEALL, Store -/

/-- WRITEALL in Store at entry i, forwards (41_multitarget.md R152). -/
theorem execWriteall_store {s : State} {r : RunState} {w : Width} {n : BitVec 6} {b : BitVec 16} {v : Bool}
    {a : BitVec 8} (hu : s.unit = .run r) (hp : r.ph = .store) (ha : r.snap.handles[r.i]? = some a) :
    exec (.writeall w n b v) s =
      .next ((storeEntry w r.i a (bitSet w (r.tmp.setWidth w.bits) b.toNat v) s).withRun
        { r with i := r.i + 1, ph := if r.i + 1 < n.toNat then .load else .finish }) := by
  simp only [exec, execWriteall, writeallStep, onRun, hu, hp, writeallStore, ha]

/-- The container WRITEALL stores, bit by bit: tmp cut to the width with bit b replaced (41_multitarget.md R145). -/
theorem getLsbD_writeallContainer {w : Width} {b : Nat} (hb : b < w.bits) (x : BitVec 256) (v : Bool) (j : Nat) :
    ((bitSet w (x.setWidth w.bits) b v).setWidth 256).getLsbD j =
      (decide (j < w.bits) && if j = b then v else x.getLsbD j) := by
  have hw := bits_le w
  by_cases hj : j < w.bits
  · have hj256 : j < 256 := by omega
    simp only [BitVec.getLsbD_setWidth, getLsbD_bitSet _ v hb hj, hj, hj256, decide_true, Bool.true_and]
  · simp only [BitVec.getLsbD_setWidth, getLsbD_bits_ge _ (Nat.le_of_not_lt hj), hj, decide_false, Bool.and_false,
      Bool.false_and]

/-- Settles O38: the step is the store of one entry, which either updates slot t_i and WOK or only WFAIL. -/
theorem writeallStoreCommitsOrReports : Obligations.WriteallStoreCommitsOrReports := by
  intro s r w n b v a hu hp ha hb hwf
  obtain ⟨hans, e⟩ | ⟨hans, e⟩ := storeEntry_cases w r.i a (bitSet w (r.tmp.setWidth w.bits) b.toNat v) s
  · refine ⟨_, _, _, by rw [execWriteall_store hu hp ha, e]; rfl, fun a' ha' => slotLookup_update_other _ ha', ?_⟩
    rw [if_pos hans, slotLookup_update_same hwf]
    exact ⟨getLsbD_writeallContainer hb r.tmp v, rfl, rfl⟩
  · refine ⟨_, _, _, by rw [execWriteall_store hu hp ha, e]; rfl, fun _ _ => rfl, ?_⟩
    rw [if_neg (by rw [hans]; exact Bool.false_ne_true)]
    exact ⟨rfl, rfl, rfl⟩

/-! ### Unlisted slots -/

/-- A unit step of WRITEALL leaves the slots alone or stores the entry of one listed handle (41_multitarget.md
R152). -/
theorem execWriteall_next_slots {s t : State} {r : RunState} {w : Width} {n : BitVec 6} {b : BitVec 16} {v : Bool}
    (hu : s.unit = .run r) (h : exec (.writeall w n b v) s = .next t) :
    t.slots = s.slots ∨
      ∃ a ∈ r.snap.handles, ∃ c : BitVec w.bits, t.slots = (storeEntry w r.i a c s).slots := by
  obtain ⟨r', hu', hcase⟩ := execWriteall_next h
  obtain rfl : r = r' := UnitState.run.inj (hu.symm.trans hu')
  obtain ⟨-, e, -, rfl⟩ | ⟨-, -, rfl⟩ | ⟨-, a, -, rfl⟩ | ⟨-, a, ha, rfl⟩ | ⟨-, rfl⟩ := hcase
  case inr.inr.inr.inl => exact .inr ⟨a, List.mem_of_getElem? ha, _, rfl⟩
  all_goals exact .inl rfl

/-- Settles O41: only WRITEALL writes a slot, and the slot it stores is one its snapshot lists. -/
theorem unlistedSlotsUntouched : Obligations.UnlistedSlotsUntouched := by
  intro i s t r a hu h hna
  by_cases hi : ∃ w n b v, i = .writeall w n b v
  · obtain ⟨w, n, b, v, rfl⟩ := hi
    obtain hslots | ⟨a', ha', c, hslots⟩ := execWriteall_next_slots hu h
    · rw [hslots]
    · have hne : a.toNat ≠ a'.toNat := fun heq => hna (BitVec.eq_of_toNat_eq heq ▸ ha')
      rw [hslots, slotLookup_storeEntry_other r.i c s hne]
  · obtain ⟨-, -, -, -, -, -, -, -, -, -, -, hkeep⟩ := unitStepFrame i s t h
    obtain ⟨hslots, -⟩ := hkeep fun w n b v e => hi ⟨w, n, b, v, e⟩
    rw [hslots]

end Sys2Proof.Machine
end

section
/-! PROOFS. The command word: a word is its fields, what each answer of the decoder says of them, and that decode and
encode agree (30_encoding.md R80 to R89). -/

namespace Sys2Proof

/-! ### The word and its fields -/

/-- A word with RSV = 0 is assembled from its own fields: they cover all 32 bits (30_encoding.md R80). -/
theorem encodeFields_of_fields {c : BitVec 32} (h : rsvField c = 0#2) :
    encodeFields (opField c) (wcField c) (vField c) (ntField c) (idxField c) = c := by
  rw [encodeFields, ← h]
  refine BitVec.eq_of_getLsbD_eq fun j hj => ?_
  simp only [opField, wcField, vField, ntField, rsvField, idxField, BitVec.getLsbD_extractLsb', BitVec.getLsbD_append]
  interval_cases j <;> simp

/-- The value a V bit names has that bit (30_encoding.md R89). -/
theorem ofBool_beq_one (x : BitVec 1) : BitVec.ofBool (x == 1#1) = x := by revert x; decide

/-- The bit of a value names that value (30_encoding.md R89). -/
theorem beq_one_ofBool (v : Bool) : (BitVec.ofBool v == 1#1) = v := by cases v <;> rfl

/-! ### The word of a command decodes to it -/

/-- Settles O18: by command, the fields of its word (R80) take the decoder past every clause of R88. -/
theorem decodeOfEncodeIsTheCommand : Obligations.DecodeOfEncodeIsTheCommand := by
  intro nmax i hwf
  cases i with
  | get w b =>
    obtain ⟨hrsv, hop, hw, hv, hnt, hidx⟩ := Laws.EncodedFields.get w b
    simp [decode, hrsv, hop, hw, hv, hnt, hidx]
  | set w b v =>
    obtain ⟨hrsv, hop, hw, hv, hnt, hidx⟩ := Laws.EncodedFields.set w b v
    simp [decode, hrsv, hop, hw, hv, hnt, hidx, beq_one_ofBool]
  | read w n b =>
    obtain ⟨hrsv, hop, hw, hv, hnt, hidx⟩ := Laws.EncodedFields.read w n b
    have hn : ¬ nmax < n.toNat := Nat.not_lt.mpr (of_decide_eq_true hwf)
    simp [decode, hrsv, hop, hw, hv, hnt, hidx, hn]
  | hasdis w n b =>
    obtain ⟨hrsv, hop, hw, hv, hnt, hidx⟩ := Laws.EncodedFields.hasdis w n b
    have hn : ¬ nmax < n.toNat := Nat.not_lt.mpr (of_decide_eq_true hwf)
    simp [decode, hrsv, hop, hw, hv, hnt, hidx, hn]
  | writeall w n b v =>
    obtain ⟨hrsv, hop, hw, hv, hnt, hidx⟩ := Laws.EncodedFields.writeall w n b v
    have hn : ¬ nmax < n.toNat := Nat.not_lt.mpr (of_decide_eq_true hwf)
    simp [decode, hrsv, hop, hw, hv, hnt, hidx, hn, beq_one_ofBool]

/-! ### What the decoder's answer says of the word -/

/-- A command comes out of a clause's test only where the clause does not hold. -/
theorem test_eq_command {p : Prop} [Decidable p] {why : Illegal} {d : Decoded} {i : Instr} :
    (if p then .illegal why else d) = .command i ↔ ¬ p ∧ d = .command i := by
  by_cases hp : p <;> simp [hp]

/-- A cause comes out of a clause's test where the clause holds, or from what follows the test. -/
theorem test_eq_illegal {p : Prop} [Decidable p] {why why' : Illegal} {d : Decoded} :
    (if p then .illegal why else d) = .illegal why' ↔ (p ∧ why = why') ∨ (¬ p ∧ d = .illegal why') := by
  by_cases hp : p <;> simp [hp]

/-- A decoded command: RSV is 0, WC is its width's code, and by OP its operands are the fields, the unused ones 0 and
NT at most NMAX (30_encoding.md R82, R87, R88). -/
theorem decode_command {nmax : Nat} {c : BitVec 32} {i : Instr} (h : decode nmax c = .command i) :
    rsvField c = 0#2 ∧ ∃ w, wcOf w = wcField c ∧
      ((opField c = 1#4 ∧ vField c = 0#1 ∧ ntField c = 0#6 ∧ i = .get w (idxField c)) ∨
       (opField c = 2#4 ∧ ntField c = 0#6 ∧ i = .set w (idxField c) (vField c == 1#1)) ∨
       (opField c = 3#4 ∧ vField c = 0#1 ∧ (ntField c).toNat ≤ nmax ∧ i = .read w (ntField c) (idxField c)) ∨
       (opField c = 4#4 ∧ vField c = 0#1 ∧ (ntField c).toNat ≤ nmax ∧ i = .hasdis w (ntField c) (idxField c)) ∨
       (opField c = 5#4 ∧ (ntField c).toNat ≤ nmax ∧
         i = .writeall w (ntField c) (idxField c) (vField c == 1#1))) := by
  obtain ⟨hrsv, h⟩ := test_eq_command.mp h
  refine ⟨not_not.mp hrsv, ?_⟩
  split at h
  next => cases h
  next w hw =>
    refine ⟨w, widthOf_eq_some.mp hw, ?_⟩
    split at h
    next hop =>
      obtain ⟨hzero, h⟩ := test_eq_command.mp h
      obtain ⟨hv, hnt⟩ := not_or.mp hzero
      exact .inl ⟨BitVec.eq_of_toNat_eq hop, not_not.mp hv, not_not.mp hnt, (Decoded.command.inj h).symm⟩
    next hop =>
      obtain ⟨hnt, h⟩ := test_eq_command.mp h
      exact .inr (.inl ⟨BitVec.eq_of_toNat_eq hop, not_not.mp hnt, (Decoded.command.inj h).symm⟩)
    next hop =>
      obtain ⟨hv, h⟩ := test_eq_command.mp h
      obtain ⟨hle, h⟩ := test_eq_command.mp h
      exact .inr (.inr (.inl ⟨BitVec.eq_of_toNat_eq hop, not_not.mp hv, not_lt.mp hle, (Decoded.command.inj h).symm⟩))
    next hop =>
      obtain ⟨hv, h⟩ := test_eq_command.mp h
      obtain ⟨hle, h⟩ := test_eq_command.mp h
      exact .inr (.inr (.inr (.inl
        ⟨BitVec.eq_of_toNat_eq hop, not_not.mp hv, not_lt.mp hle, (Decoded.command.inj h).symm⟩)))
    next hop =>
      obtain ⟨hle, h⟩ := test_eq_command.mp h
      exact .inr (.inr (.inr (.inr ⟨BitVec.eq_of_toNat_eq hop, not_lt.mp hle, (Decoded.command.inj h).symm⟩)))
    next => cases h

/-- The clause of 30_encoding.md R88 that each cause stands for. -/
def Illegal.Clause (nmax : Nat) (c : BitVec 32) : Illegal → Prop
  | .reservedOpcode => (opField c).toNat < 1 ∨ 5 < (opField c).toNat
  | .reservedWidth => 6 ≤ (wcField c).toNat
  | .reservedBits => rsvField c ≠ 0#2
  | .unusedField =>
    ((opField c).toNat = 1 ∧ (vField c ≠ 0#1 ∨ ntField c ≠ 0#6)) ∨ ((opField c).toNat = 2 ∧ ntField c ≠ 0#6) ∨
    ((opField c).toNat = 3 ∧ vField c ≠ 0#1) ∨ ((opField c).toNat = 4 ∧ vField c ≠ 0#1)
  | .tooManyTargets => 3 ≤ (opField c).toNat ∧ (opField c).toNat ≤ 5 ∧ nmax < (ntField c).toNat

/-- The clause of the cause the decoder names holds of the word (30_encoding.md R88). -/
theorem decode_illegal {nmax : Nat} {c : BitVec 32} {why : Illegal} (h : decode nmax c = .illegal why) :
    why.Clause nmax c := by
  obtain ⟨hrsv, rfl⟩ | ⟨-, h⟩ := test_eq_illegal.mp h
  · exact hrsv
  split at h
  next hw =>
    injection h with h
    exact h ▸ widthOf_eq_none.mp hw
  next w hw =>
    split at h
    next hop =>
      obtain ⟨hzero, rfl⟩ | ⟨-, h⟩ := test_eq_illegal.mp h
      · exact .inl ⟨hop, hzero⟩
      · cases h
    next hop =>
      obtain ⟨hnt, rfl⟩ | ⟨-, h⟩ := test_eq_illegal.mp h
      · exact .inr (.inl ⟨hop, hnt⟩)
      · cases h
    next hop =>
      obtain ⟨hv, rfl⟩ | ⟨-, h⟩ := test_eq_illegal.mp h
      · exact .inr (.inr (.inl ⟨hop, hv⟩))
      obtain ⟨hlt, rfl⟩ | ⟨-, h⟩ := test_eq_illegal.mp h
      · exact ⟨by omega, by omega, hlt⟩
      · cases h
    next hop =>
      obtain ⟨hv, rfl⟩ | ⟨-, h⟩ := test_eq_illegal.mp h
      · exact .inr (.inr (.inr ⟨hop, hv⟩))
      obtain ⟨hlt, rfl⟩ | ⟨-, h⟩ := test_eq_illegal.mp h
      · exact ⟨by omega, by omega, hlt⟩
      · cases h
    next hop =>
      obtain ⟨hlt, rfl⟩ | ⟨-, h⟩ := test_eq_illegal.mp h
      · exact ⟨by omega, by omega, hlt⟩
      · cases h
    next h1 h2 h3 h4 h5 =>
      injection h with h
      subst h
      simp only [imp_false] at h1 h2 h3 h4 h5
      show (opField c).toNat < 1 ∨ 5 < (opField c).toNat
      omega

/-- No clause of 30_encoding.md R88 holds of a word that decodes. -/
theorem no_clause_of_command {nmax : Nat} {c : BitVec 32} {i : Instr} (h : decode nmax c = .command i)
    (why : Illegal) : ¬ why.Clause nmax c := by
  obtain ⟨hrsv, w, hw, hcase⟩ := decode_command h
  cases why with
  | reservedBits => exact not_not.mpr hrsv
  | reservedWidth => rw [Illegal.Clause, ← widthOf_eq_none, ← hw, widthOf_wcOf]; exact Option.some_ne_none w
  | reservedOpcode | unusedField | tooManyTargets =>
    obtain ⟨hop, hv, hnt, -⟩ | ⟨hop, hnt, -⟩ | ⟨hop, hv, hle, -⟩ | ⟨hop, hv, hle, -⟩ | ⟨hop, hle, -⟩ := hcase
    all_goals simp [Illegal.Clause, *]

/-- The decoder answers IllegalCommand exactly where a clause of 30_encoding.md R88 holds. -/
theorem decode_illegal_iff {nmax : Nat} {c : BitVec 32} :
    (∃ why, decode nmax c = .illegal why) ↔ ∃ why : Illegal, why.Clause nmax c := by
  constructor
  · rintro ⟨why, h⟩
    exact ⟨why, decode_illegal h⟩
  · rintro ⟨why, hclause⟩
    cases h : decode nmax c with
    | illegal why' => exact ⟨why', rfl⟩
    | command i => exact absurd hclause (no_clause_of_command h why)

/-! ### The statements about decoding -/

/-- The value a V bit names, by the bit's number (30_encoding.md R89). -/
theorem beq_one_eq_decide (x : BitVec 1) : (x == 1#1) = decide (x.toNat = 1) := by revert x; decide

theorem toNat_ne_zero_iff {n : Nat} {x : BitVec n} : x.toNat ≠ 0 ↔ x ≠ 0#n := by
  rw [ne_eq, ne_eq, BitVec.toNat_eq, BitVec.toNat_zero]

/-- Settles O17: the causes of R88 put side by side, and the operands as `decode_command` gives them. -/
theorem decodeIsIllegalExactlyWhen : Obligations.DecodeIsIllegalExactlyWhen := by
  intro nmax c op wc v nt rsv idx
  refine ⟨decode_illegal_iff.trans ?_, fun i h => ?_⟩
  · simp only [op, wc, v, nt, rsv, toNat_ne_zero_iff]
    constructor
    · rintro ⟨why, h⟩
      cases why with
      | reservedOpcode => exact .inl h
      | reservedWidth => exact .inr (.inl h)
      | reservedBits => exact .inr (.inr (.inl h))
      | unusedField => exact .inr (.inr (.inr (.inl h)))
      | tooManyTargets => exact .inr (.inr (.inr (.inr h)))
    · rintro (h | h | h | h | h)
      · exact ⟨.reservedOpcode, h⟩
      · exact ⟨.reservedWidth, h⟩
      · exact ⟨.reservedBits, h⟩
      · exact ⟨.unusedField, h⟩
      · exact ⟨.tooManyTargets, h⟩
  · obtain ⟨-, w, hw, hcase⟩ := decode_command h
    refine ⟨w, congrArg BitVec.toNat hw, ?_⟩
    rw [beq_one_eq_decide] at hcase
    obtain ⟨hop, -, -, hi⟩ | ⟨hop, -, hi⟩ | ⟨hop, -, -, hi⟩ | ⟨hop, -, -, hi⟩ | ⟨hop, -, hi⟩ := hcase
    · exact .inl ⟨congrArg BitVec.toNat hop, hi⟩
    · exact .inr (.inl ⟨congrArg BitVec.toNat hop, hi⟩)
    · exact .inr (.inr (.inl ⟨congrArg BitVec.toNat hop, hi⟩))
    · exact .inr (.inr (.inr (.inl ⟨congrArg BitVec.toNat hop, hi⟩)))
    · exact .inr (.inr (.inr (.inr ⟨congrArg BitVec.toNat hop, hi⟩)))

/-- The word of a decoded command, field by field, is the word decoded. -/
theorem encode_of_decode_command {nmax : Nat} {c : BitVec 32} {i : Instr} (h : decode nmax c = .command i) :
    encode i = c := by
  obtain ⟨hrsv, w, hw, hcase⟩ := decode_command h
  have hc := encodeFields_of_fields hrsv
  obtain ⟨hop, hv, hnt, rfl⟩ | ⟨hop, hnt, rfl⟩ | ⟨hop, hv, -, rfl⟩ | ⟨hop, hv, -, rfl⟩ | ⟨hop, -, rfl⟩ := hcase
  · rw [hop, hv, hnt, ← hw] at hc
    exact hc
  · rw [hop, hnt, ← hw, ← ofBool_beq_one (vField c)] at hc
    exact hc
  · rw [hop, hv, ← hw] at hc
    exact hc
  · rw [hop, hv, ← hw] at hc
    exact hc
  · rw [hop, ← hw, ← ofBool_beq_one (vField c)] at hc
    exact hc

/-- A decoded command is well formed (30_encoding.md R84). -/
theorem wellFormed_of_decode_command {nmax : Nat} {c : BitVec 32} {i : Instr} (h : decode nmax c = .command i) :
    i.wellFormed nmax = true := by
  cases i with
  | get w b => rfl
  | set w b v => rfl
  | read w n b => exact decide_eq_true (decode_read h).2
  | hasdis w n b => exact decide_eq_true (decode_hasdis h).2
  | writeall w n b v => exact decide_eq_true (decode_writeall h).2

/-- Settles O19: the fields of a word that decodes are those its command is encoded with. -/
theorem encodeOfDecodeIsTheWord : Obligations.EncodeOfDecodeIsTheWord :=
  fun _ _ _ h => ⟨encode_of_decode_command h, wellFormed_of_decode_command h⟩

/-- Settles O20: the first five are the words of well-formed commands, and the last two each meet one clause of R88. -/
theorem sampleWordsDecode : Obligations.SampleWordsDecode :=
  have hdecode (i : Instr) (hwf : i.wellFormed 16 = true) : decode 16 (encode i) = .command i :=
    decodeOfEncodeIsTheCommand 16 i hwf
  ⟨hdecode (.get .w256 200#16) rfl, hdecode (.set .w256 200#16 true) rfl, hdecode (.read .w64 2#6 1#16) rfl,
    hdecode (.hasdis .w64 3#6 0#16) rfl, hdecode (.writeall .w64 1#6 63#16 false) rfl, by decide, by decide⟩

end Sys2Proof
end

section
/-! PROOFS. A running command goes on and ends: the unit always has a step, each one brings the end nearer, and so
WAIT ends (41_multitarget.md R151 to R153, 30_encoding.md R94). -/

namespace Sys2Proof.Machine

/-! ### The entry a running view command is at -/

section Entry
variable {s : State} {r : RunState} {w : Width} {n : BitVec 6} {b : BitVec 16}

/-- The view of a running view command lists NT handles, and NT is at most NMAX (30_encoding.md R84). -/
theorem Inv.viewEntries (h : Inv s) (hu : s.unit = .run r)
    (hd : IsConsensus r.snap.decoded w n b ∨ ∃ v, r.snap.decoded = .command (.writeall w n b v)) :
    r.snap.handles.length = n.toNat ∧ n.toNat ≤ s.cfg.nmax := by
  obtain ⟨hsnap, -⟩ := h.running hu
  have hn : ntField s.cmd = n ∧ n.toNat ≤ s.cfg.nmax := by
    rw [hsnap] at hd
    obtain hd | ⟨v, hd⟩ := hd
    · exact IsConsensus.entries hd
    · exact decode_writeall hd
  exact ⟨hsnap ▸ snapshot_handles_length h.tgtLength hn, hn.2⟩

/-- READ and HASDIS have no Store phase, and in Load they are at an entry of the view (41_multitarget.md R151). -/
theorem Inv.consensusPhase (h : Inv s) (hu : s.unit = .run r) (hd : IsConsensus r.snap.decoded w n b) :
    r.ph ≠ .store ∧ (r.ph = .load → r.i < n.toNat) := by
  by_cases hcheck : r.ph = .check
  · simp [hcheck]
  · obtain ⟨-, -, -, hph⟩ := consensusInv_of_runInv (h.running hu) hd hcheck
    constructor <;> intro hp <;> simp only [hp] at hph
    exact hph.1

/-- In Load and Store WRITEALL is at an entry of the view (41_multitarget.md R152). -/
theorem Inv.writeallPhase {v : Bool} (h : Inv s) (hu : s.unit = .run r)
    (hd : r.snap.decoded = .command (.writeall w n b v)) (hp : r.ph = .load ∨ r.ph = .store) : r.i < n.toNat := by
  obtain hp | hp := hp
  all_goals
    obtain ⟨-, -, -, hph⟩ := writeallInv_of_runInv (h.running hu) hd (by simp [hp])
    simp only [hp] at hph
  · exact hph
  · exact hph.1

/-- A running command that is no view command is in its Check phase (41_multitarget.md R151). -/
theorem check_of_runInv (h : runInv r s)
    (hd : ∀ w n b, ¬ (IsConsensus r.snap.decoded w n b ∨ ∃ v, r.snap.decoded = .command (.writeall w n b v))) :
    r.ph = .check := by
  obtain ⟨-, -, ⟨hp, -⟩ | ⟨w, n, b, hd', -⟩ | ⟨w, n, b, hd', -⟩ | ⟨w, n, b, v, hd', -⟩⟩ := h
  · exact hp
  · exact absurd (.inl (.inl hd')) (hd w n b)
  · exact absurd (.inl (.inr hd')) (hd w n b)
  · exact absurd (.inr ⟨v, hd'⟩) (hd w n b)

end Entry

/-! ### The unit is never blocked -/

section Progress
variable {s : State} {r : RunState} {w : Width} {n : BitVec 6} {b : BitVec 16}

theorem containerStep_completes {f : BitVec w.bits → State} (hu : s.unit = .run r) (hp : r.ph = .check) :
    ∃ t, containerStep w b s f = .next t := by
  rw [containerStep_run hu hp]
  cases containerCheck w b.toNat r.snap <;> exact ⟨_, rfl⟩

theorem viewCheckStep_completes : ∃ t, viewCheckStep w n b r s = .next t := by
  unfold viewCheckStep
  cases viewCheck s.cfg w n.toNat b.toNat r.snap <;> exact ⟨_, rfl⟩

/-- READ and HASDIS have a step in each phase the invariant allows (41_multitarget.md R151). -/
theorem consensusStep_completes {fin : Acc → BitVec 16 → BitVec 16} (h : Inv s) (hu : s.unit = .run r)
    (hd : IsConsensus r.snap.decoded w n b) : ∃ t, consensusStep w n b s fin = .next t := by
  obtain ⟨hstore, hload⟩ := h.consensusPhase hu hd
  obtain ⟨hlen, -⟩ := h.viewEntries hu (.inl hd)
  simp only [consensusStep, onRun, hu]
  cases hp : r.ph with
  | check => exact viewCheckStep_completes
  | load =>
    have ha := List.getElem?_eq_getElem (hlen ▸ hload hp)
    simp only [consensusLoad, ha]
    exact ⟨_, rfl⟩
  | store => exact absurd hp hstore
  | finish => exact ⟨_, rfl⟩

/-- WRITEALL has a step in each phase (41_multitarget.md R152). -/
theorem writeallStep_completes {v : Bool} (h : Inv s) (hu : s.unit = .run r)
    (hd : r.snap.decoded = .command (.writeall w n b v)) : ∃ t, writeallStep w n b v s = .next t := by
  obtain ⟨hlen, -⟩ := h.viewEntries hu (.inr ⟨v, hd⟩)
  simp only [writeallStep, onRun, hu]
  cases hp : r.ph with
  | check => exact viewCheckStep_completes
  | load =>
    have ha := List.getElem?_eq_getElem (hlen ▸ h.writeallPhase hu hd (.inl hp))
    simp only [writeallLoad, ha]
    exact ⟨_, rfl⟩
  | store =>
    have ha := List.getElem?_eq_getElem (hlen ▸ h.writeallPhase hu hd (.inr hp))
    simp only [writeallStore, ha]
    exact ⟨_, rfl⟩
  | finish => exact ⟨_, rfl⟩

end Progress

/-- Every running command has its next step (41_multitarget.md R151). -/
theorem unitStep_completes {s : State} (h : Inv s) : ∃ t, unitStep s = .next t := by
  cases hu : s.unit with
  | idle => exact ⟨s, unitStep_of_idle hu⟩
  | run r =>
    have hcheck := check_of_runInv (h.running hu)
    cases hd : r.snap.decoded with
    | illegal why => exact ⟨_, unitStep_of_illegal hu (hcheck (by simp [hd, IsConsensus])) hd⟩
    | command i =>
      rw [unitStep_of_command hu hd]
      cases i with
      | get w b =>
        rw [exec, execGet]
        exact containerStep_completes hu (hcheck (by simp [hd, IsConsensus]))
      | set w b v =>
        rw [exec, execSet]
        exact containerStep_completes hu (hcheck (by simp [hd, IsConsensus]))
      | read w n b => exact consensusStep_completes h hu (.inl hd)
      | hasdis w n b => exact consensusStep_completes h hu (.inr hd)
      | writeall w n b v => exact writeallStep_completes h hu hd

/-! ### How many steps are left -/

/-- The most unit steps READ or HASDIS over `n` entries still takes from entry `i` of a phase (41_multitarget.md
R151). -/
def consensusStepsLeft (n i : Nat) : Phase → Nat
  | .check => n + 2
  | .load => n - i + 1
  | .store => 0
  | .finish => 1

/-- The most unit steps WRITEALL over `n` entries still takes from entry `i` of a phase (41_multitarget.md R152). -/
def writeallStepsLeft (n i : Nat) : Phase → Nat
  | .check => 2 * n + 2
  | .load => 2 * (n - i) + 1
  | .store => 2 * (n - i)
  | .finish => 1

/-- The most unit steps a command still takes, by its run state. -/
def RunState.stepsLeft (r : RunState) : Nat :=
  match r.snap.decoded with
  | .illegal _ => 1
  | .command (.get _ _) => 1
  | .command (.set _ _ _) => 1
  | .command (.read _ n _) => consensusStepsLeft n.toNat r.i r.ph
  | .command (.hasdis _ n _) => consensusStepsLeft n.toNat r.i r.ph
  | .command (.writeall _ n _ _) => writeallStepsLeft n.toNat r.i r.ph

/-- The most unit steps until the unit is idle. -/
def State.stepsLeft (s : State) : Nat :=
  match s.unit with
  | .idle => 0
  | .run r => r.stepsLeft

section StepsLeft
variable {s t : State} {r : RunState} {w : Width} {n : BitVec 6} {b : BitVec 16}

theorem stepsLeft_of_idle (hu : s.unit = .idle) : s.stepsLeft = 0 := by simp only [State.stepsLeft, hu]

theorem stepsLeft_of_run (hu : s.unit = .run r) : s.stepsLeft = r.stepsLeft := by simp only [State.stepsLeft, hu]

theorem stepsLeft_of_consensus (hd : IsConsensus r.snap.decoded w n b) :
    r.stepsLeft = consensusStepsLeft n.toNat r.i r.ph := by
  rcases hd with hd | hd <;> simp only [RunState.stepsLeft, hd]

theorem stepsLeft_of_writeall {v : Bool} (hd : r.snap.decoded = .command (.writeall w n b v)) :
    r.stepsLeft = writeallStepsLeft n.toNat r.i r.ph := by
  simp only [RunState.stepsLeft, hd]

theorem consensusStepsLeft_le (n i : Nat) (ph : Phase) : consensusStepsLeft n i ph ≤ 2 * n + 2 := by
  cases ph <;> simp only [consensusStepsLeft] <;> omega

theorem writeallStepsLeft_le (n i : Nat) (ph : Phase) : writeallStepsLeft n i ph ≤ 2 * n + 2 := by
  cases ph <;> simp only [writeallStepsLeft] <;> omega

theorem stepsLeft_le_of_consensus (h : Inv s) (hu : s.unit = .run r) (hd : IsConsensus r.snap.decoded w n b) :
    r.stepsLeft ≤ 2 * s.cfg.nmax + 2 := by
  obtain ⟨-, hn⟩ := h.viewEntries hu (.inl hd)
  calc r.stepsLeft = consensusStepsLeft n.toNat r.i r.ph := stepsLeft_of_consensus hd
    _ ≤ 2 * n.toNat + 2 := consensusStepsLeft_le _ _ _
    _ ≤ 2 * s.cfg.nmax + 2 := by omega

theorem stepsLeft_le_of_writeall {v : Bool} (h : Inv s) (hu : s.unit = .run r)
    (hd : r.snap.decoded = .command (.writeall w n b v)) : r.stepsLeft ≤ 2 * s.cfg.nmax + 2 := by
  obtain ⟨-, hn⟩ := h.viewEntries hu (.inr ⟨v, hd⟩)
  calc r.stepsLeft = writeallStepsLeft n.toNat r.i r.ph := stepsLeft_of_writeall hd
    _ ≤ 2 * n.toNat + 2 := writeallStepsLeft_le _ _ _
    _ ≤ 2 * s.cfg.nmax + 2 := by omega

/-- From any point, a command takes at most 2·NMAX + 2 steps more (41_multitarget.md R153). -/
theorem Inv.stepsLeft_le (h : Inv s) : s.stepsLeft ≤ 2 * s.cfg.nmax + 2 := by
  cases hu : s.unit with
  | idle => simp [stepsLeft_of_idle hu]
  | run r =>
    rw [stepsLeft_of_run hu]
    cases hd : r.snap.decoded with
    | illegal why => simp [RunState.stepsLeft, hd]
    | command i =>
      cases i with
      | get w b => simp [RunState.stepsLeft, hd]
      | set w b v => simp [RunState.stepsLeft, hd]
      | read w n b => exact stepsLeft_le_of_consensus h hu (.inl hd)
      | hasdis w n b => exact stepsLeft_le_of_consensus h hu (.inr hd)
      | writeall w n b v => exact stepsLeft_le_of_writeall h hu hd

/-- Each step of READ or HASDIS brings its end nearer (41_multitarget.md R151). -/
theorem consensusStep_stepsLeft_lt {fin : Acc → BitVec 16 → BitVec 16} (h : Inv s) (hu : s.unit = .run r)
    (hd : IsConsensus r.snap.decoded w n b) (hstep : consensusStep w n b s fin = .next t) :
    t.stepsLeft < s.stepsLeft := by
  obtain ⟨-, hload⟩ := h.consensusPhase hu hd
  obtain ⟨r', hu', hcase⟩ := consensusStep_next hstep
  obtain rfl : r = r' := UnitState.run.inj (hu.symm.trans hu')
  rw [stepsLeft_of_run hu, stepsLeft_of_consensus hd]
  obtain ⟨hp, e, -, rfl⟩ | ⟨hp, -, rfl⟩ | ⟨hp, a, -, acc, -, rfl⟩ | ⟨hp, rfl⟩ := hcase
  · rw [stepsLeft_of_idle rfl, hp]
    exact Nat.succ_pos _
  · rw [stepsLeft_of_run rfl, stepsLeft_of_consensus (by exact hd), hp]
    exact Nat.lt_succ_self _
  · have hi := hload hp
    rw [stepsLeft_of_run rfl, stepsLeft_of_consensus (by exact hd), hp]
    split_ifs <;> simp only [consensusStepsLeft] <;> omega
  · rw [stepsLeft_of_idle rfl, hp]
    exact Nat.succ_pos _

/-- Each step of WRITEALL brings its end nearer (41_multitarget.md R152). -/
theorem writeallStep_stepsLeft_lt {v : Bool} (h : Inv s) (hu : s.unit = .run r)
    (hd : r.snap.decoded = .command (.writeall w n b v)) (hstep : writeallStep w n b v s = .next t) :
    t.stepsLeft < s.stepsLeft := by
  have hentry := h.writeallPhase hu hd
  obtain ⟨r', hu', hcase⟩ := writeallStep_next hstep
  obtain rfl : r = r' := UnitState.run.inj (hu.symm.trans hu')
  rw [stepsLeft_of_run hu, stepsLeft_of_writeall hd]
  obtain ⟨hp, e, -, rfl⟩ | ⟨hp, -, rfl⟩ | ⟨hp, a, -, rfl⟩ | ⟨hp, a, -, rfl⟩ | ⟨hp, rfl⟩ := hcase
  · rw [stepsLeft_of_idle rfl, hp]
    exact Nat.succ_pos _
  · rw [stepsLeft_of_run rfl, stepsLeft_of_writeall (by exact hd), hp]
    exact Nat.lt_succ_self _
  · rw [stepsLeft_of_run rfl, stepsLeft_of_writeall (by exact hd), hp]
    exact Nat.lt_succ_self _
  · have hi := hentry (.inr hp)
    rw [stepsLeft_of_run rfl, stepsLeft_of_writeall (by exact hd), hp]
    split_ifs <;> simp only [writeallStepsLeft] <;> omega
  · rw [stepsLeft_of_idle rfl, hp]
    exact Nat.succ_pos _

/-- Each step of a running unit brings its command's end nearer (41_multitarget.md R151 to R153). -/
theorem unitStep_stepsLeft_lt (h : Inv s) (hu : s.unit = .run r) (hstep : unitStep s = .next t) :
    t.stepsLeft < s.stepsLeft := by
  cases hd : r.snap.decoded with
  | illegal why =>
    have hp := check_of_runInv (h.running hu) (by simp [hd, IsConsensus])
    rw [unitStep_of_illegal hu hp hd] at hstep
    injection hstep with e
    have hidle : t.unit = .idle := by rw [← e, raiseError_unit]
    simp [stepsLeft_of_idle hidle, stepsLeft_of_run hu, RunState.stepsLeft, hd]
  | command i =>
    rw [unitStep_of_command hu hd] at hstep
    cases i with
    | get w b =>
      have hidle : t.unit = .idle := by
        obtain ⟨-, -, -, ⟨e, -, rfl⟩ | ⟨-, rfl⟩⟩ := execGet_next hstep <;> rfl
      simp [stepsLeft_of_idle hidle, stepsLeft_of_run hu, RunState.stepsLeft, hd]
    | set w b v =>
      have hidle : t.unit = .idle := by
        obtain ⟨-, -, -, ⟨e, -, rfl⟩ | ⟨-, rfl⟩⟩ := execSet_next hstep <;> rfl
      simp [stepsLeft_of_idle hidle, stepsLeft_of_run hu, RunState.stepsLeft, hd]
    | read w n b => exact consensusStep_stepsLeft_lt h hu (.inl hd) hstep
    | hasdis w n b => exact consensusStep_stepsLeft_lt h hu (.inr hd) hstep
    | writeall w n b v => exact writeallStep_stepsLeft_lt h hu hd hstep

end StepsLeft

/-! ### WAIT -/

/-- A unit step takes no pending turn. -/
theorem unitStep_keeps_turns {s t : State} (hstep : unitStep s = .next t) : t.turns = s.turns := by
  obtain ⟨-, rfl⟩ | ⟨r, -, ⟨why, -, -, rfl⟩ | ⟨i, -, hexec⟩⟩ := unitStep_next hstep
  · rfl
  · rfl
  · obtain ⟨-, -, -, -, -, -, -, -, hturns, -⟩ := unitStepFrame i s t hexec
    exact hturns

section Wait
variable {s : State} {rest : List Turn}

/-- A poll while BUSY = 1 leaves the wait pending, and the unit moves (30_encoding.md R94). -/
theorem step_of_wait_busy (ht : s.turns = .wait :: rest) (hb : statusBusy s.status = true) :
    step s = unitStep (s.withHostRead (s.status.setWidth 256)) := by
  have hsame : ((s.withTurns rest).withHostRead (s.status.setWidth 256)).withTurns (.wait :: rest) =
      s.withHostRead (s.status.setWidth 256) := by
    rw [← ht]
    rfl
  rw [step_of_turn ht, takeTurn, waitStep, withTurns_status, if_pos hb, withTurns_turns, hsame]

/-- The poll that finds BUSY = 0 ends the wait (30_encoding.md R94). -/
theorem step_of_wait_idle (ht : s.turns = .wait :: rest) (hb : statusBusy s.status = false) :
    step s = .next ((s.withTurns rest).withHostRead (s.status.setWidth 256)) := by
  rw [step_of_turn ht, takeTurn, waitStep, withTurns_status, if_neg (by simp [hb])]

/-- From an idle unit one poll takes the wait. -/
theorem wait_ends_of_idle (h : Inv s) (hu : s.unit = .idle) (ht : s.turns = .wait :: rest) :
    ∃ t, Sys2Proof.core.run 1 s = .next t ∧ t.unit = .idle ∧ t.turns = rest ∧
      t.hostRead = t.status.setWidth 256 :=
  ⟨_, run_succ 0 _ _ (step_of_wait_idle ht (h.atRest hu).notBusy), hu, rfl, rfl⟩

/-- From a running unit the poll leaves the wait pending, with fewer steps left. -/
theorem wait_goes_on {r : RunState} (h : Inv s) (hu : s.unit = .run r) (ht : s.turns = .wait :: rest) :
    ∃ t, step s = .next t ∧ Inv t ∧ t.turns = .wait :: rest ∧ t.stepsLeft < s.stepsLeft := by
  have hbusy : statusBusy s.status = true := h.busy_iff.mpr (by simp [hu])
  have hread : Inv (s.withHostRead (s.status.setWidth 256)) := h.withHostRead _
  obtain ⟨t, hstep⟩ := unitStep_completes hread
  have hlt : t.stepsLeft < (s.withHostRead (s.status.setWidth 256)).stepsLeft := unitStep_stepsLeft_lt hread hu hstep
  exact ⟨t, (step_of_wait_busy ht hbusy).trans hstep, unitStep_keeps_inv hread hstep,
    (unitStep_keeps_turns hstep).trans ht, hlt⟩

/-- WAIT ends at most one poll after the last of the steps left. -/
theorem wait_ends (h : Inv s) (ht : s.turns = .wait :: rest) :
    ∃ k t, k ≤ s.stepsLeft + 1 ∧ Sys2Proof.core.run k s = .next t ∧ t.unit = .idle ∧ t.turns = rest ∧
      t.hostRead = t.status.setWidth 256 := by
  induction hm : s.stepsLeft using Nat.strong_induction_on generalizing s with
  | _ m ih =>
    cases hu : s.unit with
    | idle =>
      obtain ⟨t, hrun, hend⟩ := wait_ends_of_idle h hu ht
      exact ⟨1, t, Nat.le_add_left 1 m, hrun, hend⟩
    | run r =>
      obtain ⟨u, hstep, hinv, hturns, hlt⟩ := wait_goes_on h hu ht
      obtain ⟨k, t, hk, hrun, hend⟩ := ih u.stepsLeft (hm ▸ hlt) hinv hturns rfl
      exact ⟨k + 1, t, by omega, (run_succ k s u hstep).trans hrun, hend⟩

end Wait

/-- Settles O45: at most 2·NMAX + 2 steps are left, and the poll that finds BUSY = 0 is one more. -/
theorem waitEndsWithTheFinalStatus : Obligations.WaitEndsWithTheFinalStatus := by
  intro s rest h ht
  have hle := h.stepsLeft_le
  obtain ⟨k, t, hk, hend⟩ := wait_ends h ht
  exact ⟨k, t, by omega, hend⟩

end Sys2Proof.Machine
end

section
/-! PROOFS. The datapath of GET and SET: what the word form of SET does to each word and to each bit of a container
(40_container.md R100 to R104, R112 to R114). -/

namespace Sys2Proof.Machine

/-! ### Words of a container with one word replaced -/

/-- The word replaced reads as the new word, where it lies inside the container (40_container.md R103). -/
theorem wordOf_replaceWord_same {w : Width} (c : BitVec w.bits) {k : Nat} (x : BitVec w.wordBits)
    (hk : 64 * k + w.wordBits ≤ w.bits) : wordOf w (replaceWord w c k x) k = x := by
  refine BitVec.eq_of_getLsbD_eq fun j hj => ?_
  rw [getLsbD_wordOf, getLsbD_replaceWord _ _ _ (by omega), if_pos ⟨by omega, by omega⟩]
  simp [hj]

/-- Every other word reads as before, since no two words share a bit (40_container.md R100, R103). -/
theorem wordOf_replaceWord_other {w : Width} (c : BitVec w.bits) {k k' : Nat} (x : BitVec w.wordBits) (hk : k' ≠ k) :
    wordOf w (replaceWord w c k x) k' = wordOf w c k' := by
  have hw := wordBits_le w
  refine BitVec.eq_of_getLsbD_eq fun j hj => ?_
  rw [getLsbD_wordOf, getLsbD_wordOf]
  by_cases hin : 64 * k' + j < w.bits
  · rw [getLsbD_replaceWord _ _ _ hin, if_neg (by omega)]
  · rw [getLsbD_bits_ge _ (Nat.le_of_not_lt hin), getLsbD_bits_ge _ (Nat.le_of_not_lt hin)]

/-! ### The statements about the datapath -/

/-- Settles O21: the test is `bitGet`'s definition, and `bitGet_eq_getLsbD` says that it is the bit. -/
theorem bitGetIsTheBit : Obligations.BitGetIsTheBit :=
  fun _ c _ hb => ⟨bne_iff_ne, bitGet_eq_getLsbD c hb⟩

/-- Settles O22: SET replaces the one word of bit b, and bit by bit it changes bit b alone. -/
theorem bitSetChangesOneBitOfOneWord : Obligations.BitSetChangesOneBitOfOneWord := by
  intro w c b v hb
  refine ⟨fun j hj => getLsbD_bitSet c v hb hj, ?_, fun k _ hk => ?_⟩
  · rw [bitSet, wordOf_replaceWord_same _ _ (word_end_le_bits hb)]
  · rw [bitSet, wordOf_replaceWord_other _ _ hk]

/-- Settles O23: bit j is not the bit that SET at i changes. -/
theorem setLeavesOtherBitsReadable : Obligations.SetLeavesOtherBitsReadable := by
  intro w c i j v hi hj hij
  rw [bitGet_eq_getLsbD _ hj, bitGet_eq_getLsbD _ hj, getLsbD_bitSet c v hi hj, if_neg hij.symm]

/-- The bit that SET changes reads as the value set (40_container.md R113). -/
theorem bitGet_bitSet_same {w : Width} (c : BitVec w.bits) {i : Nat} (v : Bool) (hi : i < w.bits) :
    bitGet w (bitSet w c i v) i = v := by
  rw [bitGet_eq_getLsbD _ hi, getLsbD_bitSet c v hi hi, if_pos rfl]

/-- Settles O24, for each of the two values. -/
theorem setThenGetReturnsTheValue : Obligations.SetThenGetReturnsTheValue :=
  fun _ c _ hi => ⟨bitGet_bitSet_same c true hi, bitGet_bitSet_same c false hi⟩

/-- Settles O25, bit by bit: the second SET finds bit i at v already and every other bit as the first left it. -/
theorem setTwiceIsSetOnce : Obligations.SetTwiceIsSetOnce := by
  intro w c i v hi
  refine BitVec.eq_of_getLsbD_eq fun j hj => ?_
  rw [getLsbD_bitSet _ v hi hj]
  by_cases hji : j = i
  · rw [if_pos hji, getLsbD_bitSet c v hi hj, if_pos hji]
  · rw [if_neg hji]

end Sys2Proof.Machine
end

section
/-! PROOFS. GET and SET as one unit step each: the check of the tag and the index, and the step's effect once it passes
(40_container.md R106, R107, R110, R111, R116). -/

namespace Sys2Proof.Machine

/-! ### The check and the step, forwards -/

/-- The tag test comes first: a tag that does not match is the error whatever the index (40_container.md R106). -/
theorem containerCheck_of_tag_ne {w : Width} {snap : Snapshot} (b : Nat) (h : snap.cinTag ≠ wcOf w) :
    containerCheck w b snap = some .capacityMismatch := if_pos h

/-- On a matching tag, an index at or above W is the error (40_container.md R106). -/
theorem containerCheck_of_index_ge {w : Width} {snap : Snapshot} {b : Nat} (h : snap.cinTag = wcOf w)
    (hb : w.bits ≤ b) : containerCheck w b snap = some .range := by
  rw [containerCheck, if_neg (not_not.mpr h), if_pos hb]

section Check
variable {s : State} {r : RunState} {w : Width} {b : BitVec 16} {v : Bool} (hu : s.unit = .run r) (hp : r.ph = .check)
include hu hp

theorem execGet_of_pass (h : containerCheck w b.toNat r.snap = none) :
    exec (.get w b) s =
      .next (s.finishWith (getStatus (bitGet w (containerOperand w r.snap) b.toNat) s.status)) := by
  rw [exec, execGet, containerStep_run hu hp, h]

theorem execSet_of_pass (h : containerCheck w b.toNat r.snap = none) :
    exec (.set w b v) s =
      .next ((s.withCout (wcOf w) ((bitSet w (containerOperand w r.snap) b.toNat v).setWidth 256)).finishWith
        (endStatus .ok s.status)) := by
  rw [exec, execSet, containerStep_run hu hp, h]

/-- A check that fails ends GET and SET alike with its code (40_container.md R106). -/
theorem exec_of_containerCheck_error {e : ErrCode} {i : Instr} (hi : i = .get w b ∨ i = .set w b v)
    (h : containerCheck w b.toNat r.snap = some e) : exec i s = .next (raiseError e s) := by
  obtain rfl | rfl := hi
  · rw [exec, execGet, containerStep_run hu hp, h]
  · rw [exec, execSet, containerStep_run hu hp, h]

end Check

section Operand
variable {s : State} {r r' : RunState} {w : Width} {b : BitVec 16} {v : Bool} (hu : s.unit = .run r)
  (hp : r.ph = .check) (hp' : r'.ph = .check) (htag : r'.snap.cinTag = r.snap.cinTag)
  (hop : containerOperand w r'.snap = containerOperand w r.snap)
include hu hp hp' htag hop

/-- Of the unit's run state the step of GET and SET reads the tag and the container operand alone, where its end `f`
reads nothing of it (40_container.md R107). -/
theorem containerStep_withRun {f f' : BitVec w.bits → State} (hf : ∀ c, f' c = f c) :
    containerStep w b (s.withRun r') f' = containerStep w b s f := by
  have hcheck : containerCheck w b.toNat r'.snap = containerCheck w b.toNat r.snap := by
    rw [containerCheck, containerCheck, htag]
  rw [containerStep_run hu hp, containerStep_run rfl hp', hcheck, hop]
  cases containerCheck w b.toNat r.snap with
  | none => exact congrArg Host.Outcome.next (hf _)
  | some e => rfl

theorem execGet_withRun : exec (.get w b) (s.withRun r') = exec (.get w b) s := by
  simp only [exec, execGet]
  exact containerStep_withRun hu hp hp' htag hop fun _ => rfl

theorem execSet_withRun : exec (.set w b v) (s.withRun r') = exec (.set w b v) s := by
  simp only [exec, execSet]
  exact containerStep_withRun hu hp hp' htag hop fun _ => rfl

end Operand

/-! ### The statements about GET and SET -/

/-- Settles O32: the operand is CIN cut to the width, and the tag is the same. -/
theorem highCinBitsDoNotMatter : Obligations.HighCinBitsDoNotMatter :=
  fun _ r _ _ _ x hu hp hx =>
    have hop : containerOperand _ { r.snap with cin := x } = containerOperand _ r.snap := hx
    ⟨execGet_withRun hu hp (by exact hp) rfl hop, execSet_withRun hu hp (by exact hp) rfl hop⟩

/-- Settles O28: the check passes, and below W the operand's bits are CIN's. -/
theorem getReturnsTheCinBit : Obligations.GetReturnsTheCinBit := by
  intro s r w b hu hp htag hb
  have hcin : bitGet w (containerOperand w r.snap) b.toNat = r.snap.cin.getLsbD b.toNat := by
    rw [bitGet_eq_getLsbD _ hb, containerOperand, BitVec.getLsbD_setWidth, decide_eq_true hb, Bool.true_and]
  obtain ⟨hbusy, herr, hbit, hrest⟩ :=
    getStatus_fields (bitGet w (containerOperand w r.snap) b.toNat) s.status
  exact ⟨_, execGet_of_pass hu hp (containerCheck_eq_none.mpr ⟨htag, hb⟩), hbit.trans hcin, herr, hbusy, hrest⟩

/-- Settles O29: the check passes, and the four words written are the operand with bit b replaced, zero-extended. -/
theorem setWritesCoutAndTag : Obligations.SetWritesCoutAndTag := by
  intro s r w b v hu hp htag hb
  refine ⟨_, _, _, _, _, execSet_of_pass hu hp (containerCheck_eq_none.mpr ⟨htag, hb⟩), fun j _ => ?_,
    endStatus_err _ _, endStatus_busy _ _, endStatus_bit _ _, endStatus_tri _ _, endStatus_dis _ _,
    endStatus_all _ _, endStatus_any _ _, endStatus_reserved _ _⟩
  calc (coutValue (s.withCout (wcOf w) ((bitSet w (containerOperand w r.snap) b.toNat v).setWidth 256))).getLsbD j
      = ((bitSet w (containerOperand w r.snap) b.toNat v).setWidth 256).getLsbD j := by rw [coutValue_withCout]
    _ = (decide (j < w.bits) && if j = b.toNat then v else r.snap.cin.getLsbD j) :=
        getLsbD_writeallContainer hb r.snap.cin v j

/-- Settles O30: each clause is one failing branch of the check, and raising its code writes ERR and BUSY alone. -/
theorem containerCheckTagBeforeRange : Obligations.ContainerCheckTagBeforeRange := by
  refine ⟨fun w => by cases w <;> decide, fun s r w b v i hu hp hi => ⟨fun htag => ?_, fun htag hb => ?_⟩⟩
  · exact ⟨_, exec_of_containerCheck_error hu hp hi (containerCheck_of_tag_ne _ htag), endStatus_err _ _,
      endStatus_busy _ _, endStatus_bit _ _, endStatus_tri _ _, endStatus_dis _ _, endStatus_all _ _,
      endStatus_any _ _, endStatus_reserved _ _⟩
  · exact ⟨_, exec_of_containerCheck_error hu hp hi (containerCheck_of_index_ge htag hb), endStatus_err _ _,
      endStatus_busy _ _, endStatus_bit _ _, endStatus_tri _ _, endStatus_dis _ _, endStatus_all _ _,
      endStatus_any _ _, endStatus_reserved _ _⟩

/-- Settles O31: the CMD write starts the command with a matching tag, and its Check step raises RangeError. -/
theorem indexAtCapacityIsRejected : Obligations.IndexAtCapacityIsRejected := by
  intro s w b v i hb htag hi hbusy hturns
  have hwf : i.wellFormed s.cfg.nmax = true := by obtain rfl | rfl := hi <;> rfl
  obtain ⟨r, hstart, hp, -, hdec, htag', -, -⟩ := commandStartClearsStatus s (encode i) [] hbusy hturns
  rw [decodeOfEncodeIsTheCommand _ i hwf] at hdec
  have hrange : containerCheck w b.toNat r.snap = some .range :=
    containerCheck_of_index_ge (htag'.trans htag) (by omega)
  rw [run_succ 1 _ _ hstart, run_succ 0]
  case h =>
    rw [step_of_no_turns rfl, unitStep_of_command rfl hdec]
    exact exec_of_containerCheck_error rfl hp hi hrange
  have hstatus : endStatus .range 0x0001#16 = 0x0002#16 := by decide
  exact ⟨_, rfl, hstatus, rfl, rfl, rfl, rfl, rfl, rfl, rfl⟩

end Sys2Proof.Machine
end

section
/-! PROOFS. The unit steps of a command add up to the atomic reference function (41_multitarget.md R154). Each state of a
run determines the state its command ends in, `State.outcome`; no unit step changes it, at command start it is the atomic
reference function's, and at rest it is the state itself. -/

namespace Sys2Proof.Machine

/-! ### The short-circuit -/

/-- A reduction that stops early does so at a disagreement, and then the entries not loaded change no result
(41_multitarget.md R139). -/
theorem reduction_of_part {bs cs : List Bool} (hne : bs ≠ []) (h : cs = [] ∨ accDis (accOf bs) = true) :
    accTri (accOf bs) = triOf (bs ++ cs) ∧ accDis (accOf bs) = disOf (bs ++ cs) ∧
    (accOf bs).all = (accOf (bs ++ cs)).all ∧ (accOf bs).any = (accOf (bs ++ cs)).any := by
  have hne' : bs ++ cs ≠ [] := List.append_ne_nil_of_left_ne_nil hne cs
  rw [triOf_eq_accTri _ hne', disOf_eq_accDis _ hne']
  obtain rfl | hdis := h
  · rw [List.append_nil]
    exact ⟨rfl, rfl, rfl, rfl⟩
  · obtain ⟨hall, hany, hdis'⟩ := accOf_of_disagreeing_part bs cs hne hdis
    refine ⟨?_, hdis.trans hdis'.symm, hall.symm, hany.symm⟩
    rw [accTri, accTri, if_pos hdis, if_pos hdis']

theorem readStatus_of_part {bs cs : List Bool} (hne : bs ≠ []) (h : cs = [] ∨ accDis (accOf bs) = true)
    (st : BitVec 16) : readStatus (accOf bs) st = atomicReadStatus (bs ++ cs) st := by
  obtain ⟨htri, -, hall, hany⟩ := reduction_of_part hne h
  simp only [readStatus, atomicReadStatus, reductionStatus, htri, hall, hany]

theorem hasdisStatus_of_part {bs cs : List Bool} (hne : bs ≠ []) (h : cs = [] ∨ accDis (accOf bs) = true)
    (st : BitVec 16) : hasdisStatus (accOf bs) st = atomicHasdisStatus (bs ++ cs) st := by
  obtain ⟨-, hdis, hall, hany⟩ := reduction_of_part hne h
  simp only [hasdisStatus, atomicHasdisStatus, reductionStatus, hdis, hall, hany]

/-- At Finish the accumulators hold a non-empty part of the view's bits: all of them, or enough to disagree
(41_multitarget.md R139, R151). -/
theorem viewBits_of_finish {w : Width} {n : BitVec 6} {b : BitVec 16} {r : RunState} {s : State}
    (h : consensusInv w n b r s) (hp : r.ph = .finish) (hlen : r.snap.handles.length = n.toNat) :
    ∃ bs cs, viewBits w b.toNat r.snap.handles s = bs ++ cs ∧ bs ≠ [] ∧ r.acc = accOf bs ∧
      (cs = [] ∨ accDis (accOf bs) = true) := by
  obtain ⟨-, -, -, hph⟩ := h
  simp only [hp] at hph
  obtain ⟨hpos, hle, hacc, hend⟩ := hph
  refine ⟨viewBits w b.toNat (r.snap.handles.take r.i) s, viewBits w b.toNat (r.snap.handles.drop r.i) s, ?_, ?_,
    hacc, ?_⟩
  · rw [viewBits, viewBits, viewBits, ← List.map_append, List.take_append_drop]
  · refine List.ne_nil_of_length_pos ?_
    simp only [viewBits, List.length_map, List.length_take]
    omega
  · rw [← hacc]
    refine hend.imp_left fun hi => ?_
    rw [hi, ← hlen, List.drop_length]
    rfl

/-! ### Where a command ends -/

/-- READ or HASDIS over a view, every entry loaded; `fin` is the STATUS it writes (41_multitarget.md R140, R141). -/
def consensusOutcome (w : Width) (n b : Nat) (snap : Snapshot) (fin : List Bool → BitVec 16 → BitVec 16) (s : State) :
    State :=
  match viewCheck s.cfg w n b snap with
  | some e => raiseError e s
  | none => s.finishWith (fin (viewBits w b snap.handles s) s.status)

/-- WRITEALL over a view from entry `i` on, with the entries below `i` stored already, and its Finish
(41_multitarget.md R145, R149). -/
def writeallOutcome (w : Width) (n b : Nat) (v : Bool) (i : Nat) (snap : Snapshot) (s : State) : State :=
  match viewCheck s.cfg w n b snap with
  | some e => raiseError e s
  | none =>
    let s' := atomicStores w b v i (snap.handles.drop i) s
    raiseError (writeallErr s'.wfail) s'

/-- The state that the command of run state `r` ends in by the atomic reference function: WRITEALL has stored its
entries below `i` already, and every other command has written nothing yet. -/
def RunState.outcome (r : RunState) (s : State) : State :=
  match r.snap.decoded with
  | .command (.writeall w n b v) => writeallOutcome w n.toNat b.toNat v r.i r.snap s
  | _ => atomicRun r.snap s

/-- The state that the unit comes to rest in, with the host silent. -/
def State.outcome (s : State) : State :=
  match s.unit with
  | .idle => s
  | .run r => r.outcome s

section Outcome
variable {s : State} {r : RunState} {w : Width} {n : BitVec 6} {b : BitVec 16} {v : Bool}

theorem outcome_of_idle (hu : s.unit = .idle) : s.outcome = s := by simp only [State.outcome, hu]

theorem outcome_of_run (hu : s.unit = .run r) : s.outcome = r.outcome s := by simp only [State.outcome, hu]

theorem outcome_of_illegal {why : Illegal} (hd : r.snap.decoded = .illegal why) :
    r.outcome s = raiseError .illegalCommand s := by
  simp only [RunState.outcome, atomicRun, hd]

theorem outcome_of_read (hd : r.snap.decoded = .command (.read w n b)) :
    r.outcome s = consensusOutcome w n.toNat b.toNat r.snap atomicReadStatus s := by
  cases hv : viewCheck s.cfg w n.toNat b.toNat r.snap <;>
    simp only [RunState.outcome, atomicRun, consensusOutcome, hd, hv]

theorem outcome_of_hasdis (hd : r.snap.decoded = .command (.hasdis w n b)) :
    r.outcome s = consensusOutcome w n.toNat b.toNat r.snap atomicHasdisStatus s := by
  cases hv : viewCheck s.cfg w n.toNat b.toNat r.snap <;>
    simp only [RunState.outcome, atomicRun, consensusOutcome, hd, hv]

theorem outcome_of_writeall (hd : r.snap.decoded = .command (.writeall w n b v)) :
    r.outcome s = writeallOutcome w n.toNat b.toNat v r.i r.snap s := by
  simp only [RunState.outcome, hd]

/-- Before any entry is stored, the outcome is the atomic reference function's. -/
theorem outcome_eq_atomicRun (hi : r.i = 0) : r.outcome s = atomicRun r.snap s := by
  unfold RunState.outcome
  split
  next w n b v hd =>
    cases hv : viewCheck s.cfg w n.toNat b.toNat r.snap <;>
      simp only [atomicRun, writeallOutcome, hd, hv, hi, List.drop_zero]
  next => rfl

/-- The store of an entry leaves the configuration alone. -/
theorem storeEntry_cfg (i : Nat) (a : BitVec 8) (c : BitVec w.bits) : (storeEntry w i a c s).cfg = s.cfg := by
  obtain ⟨-, e⟩ | ⟨-, e⟩ := storeEntry_cases w i a c s <;> rw [e]

/-- A command's end overwrites the unit, and nothing it does before reads it. -/
theorem consensusOutcome_withRun (fin : List Bool → BitVec 16 → BitVec 16) (n b : Nat) (snap : Snapshot) :
    consensusOutcome w n b snap fin (s.withRun r) = consensusOutcome w n b snap fin s := by
  simp only [consensusOutcome, withRun_cfg]
  cases viewCheck s.cfg w n b snap <;> rfl

theorem writeallOutcome_withRun (n b i : Nat) (snap : Snapshot) :
    writeallOutcome w n b v i snap (s.withRun r) = writeallOutcome w n b v i snap s := by
  simp only [writeallOutcome, withRun_cfg, atomicStores_withRun]
  cases viewCheck s.cfg w n b snap <;> rfl

/-- The store of entry `i` in the word form is the next round of WRITEALL's loop (41_multitarget.md R145). -/
theorem writeallOutcome_store {n b i : Nat} {snap : Snapshot} {a : BitVec 8}
    (hview : viewCheck s.cfg w n b snap = none) (ha : snap.handles[i]? = some a) :
    writeallOutcome w n b v (i + 1) snap (storeEntry w i a (bitSet w (memRead w a s) b v) s) =
      writeallOutcome w n b v i snap s := by
  obtain ⟨hlt, hget⟩ := List.getElem?_eq_some_iff.mp ha
  obtain ⟨-, hb, -⟩ := viewCheck_eq_none.mp hview
  rw [writeallOutcome, writeallOutcome, storeEntry_cfg, hview, bitSet_eq_whole _ v hb, List.drop_eq_getElem_cons hlt,
    hget]
  rfl

end Outcome

/-! ### No unit step changes where the command ends -/

section Keeps
variable {s t : State} {r : RunState} {w : Width} {n : BitVec 6} {b : BitVec 16} {v : Bool} (hu : s.unit = .run r)
include hu

/-- GET: its mask test is the bit (40_container.md R102). -/
theorem execGet_outcome (hd : r.snap.decoded = .command (.get w b)) (hstep : exec (.get w b) s = .next t) :
    t.outcome = s.outcome := by
  obtain ⟨r', hu', -, hcase⟩ := execGet_next hstep
  obtain rfl : r = r' := UnitState.run.inj (hu.symm.trans hu')
  rw [outcome_of_run hu]
  obtain ⟨e, he, rfl⟩ | ⟨hnone, rfl⟩ := hcase
  · rw [outcome_of_idle rfl]
    simp only [RunState.outcome, atomicRun, hd, he]
  · rw [outcome_of_idle rfl, bitGet_eq_getLsbD _ (containerCheck_eq_none.mp hnone).2]
    simp only [RunState.outcome, atomicRun, hd, hnone]

/-- SET: its word form is the bit form (40_container.md R103, R104). -/
theorem execSet_outcome (hd : r.snap.decoded = .command (.set w b v)) (hstep : exec (.set w b v) s = .next t) :
    t.outcome = s.outcome := by
  obtain ⟨r', hu', -, hcase⟩ := execSet_next hstep
  obtain rfl : r = r' := UnitState.run.inj (hu.symm.trans hu')
  rw [outcome_of_run hu]
  obtain ⟨e, he, rfl⟩ | ⟨hnone, rfl⟩ := hcase
  · rw [outcome_of_idle rfl]
    simp only [RunState.outcome, atomicRun, hd, he]
  · rw [outcome_of_idle rfl, bitSet_eq_whole _ v (containerCheck_eq_none.mp hnone).2]
    simp only [RunState.outcome, atomicRun, hd, hnone]

/-- READ and HASDIS: Check and Load write nothing, and what Finish writes is the reduction of the whole view;
`fin` and `afin` are the STATUS of the unit and of the atomic reference function (41_multitarget.md R139, R151). -/
theorem consensusStep_outcome {d : Decoded} {fin : Acc → BitVec 16 → BitVec 16}
    {afin : List Bool → BitVec 16 → BitVec 16} (h : Inv s) (hd : r.snap.decoded = d) (hc : IsConsensus d w n b)
    (hout : ∀ {r : RunState} {s : State}, r.snap.decoded = d →
      r.outcome s = consensusOutcome w n.toNat b.toNat r.snap afin s)
    (hfin : ∀ {bs cs}, bs ≠ [] → cs = [] ∨ accDis (accOf bs) = true → ∀ st, fin (accOf bs) st = afin (bs ++ cs) st)
    (hstep : consensusStep w n b s fin = .next t) : t.outcome = s.outcome := by
  obtain ⟨r', hu', hcase⟩ := consensusStep_next hstep
  obtain rfl : r = r' := UnitState.run.inj (hu.symm.trans hu')
  rw [outcome_of_run hu, hout hd]
  obtain ⟨-, e, he, rfl⟩ | ⟨-, -, rfl⟩ | ⟨-, a, -, acc, -, rfl⟩ | ⟨hp, rfl⟩ := hcase
  · rw [outcome_of_idle rfl, consensusOutcome, he]
  · rw [outcome_of_run rfl, hout (by exact hd), consensusOutcome_withRun]
  · rw [outcome_of_run rfl, hout (by exact hd), consensusOutcome_withRun]
  · have hc' : IsConsensus r.snap.decoded w n b := hd ▸ hc
    have hinv := consensusInv_of_runInv (h.running hu) hc' (by simp [hp])
    obtain ⟨hlen, -⟩ := h.viewEntries hu (.inl hc')
    obtain ⟨bs, cs, hbits, hne, hacc, hend⟩ := viewBits_of_finish hinv hp hlen
    obtain ⟨hview, -⟩ := hinv
    rw [outcome_of_idle rfl, consensusOutcome, hview, hacc, hfin hne hend, hbits]

/-- WRITEALL: Store does one round of the loop, on the container that Load left in tmp (41_multitarget.md R145,
R152). -/
theorem execWriteall_outcome (h : Inv s) (hd : r.snap.decoded = .command (.writeall w n b v))
    (hstep : exec (.writeall w n b v) s = .next t) : t.outcome = s.outcome := by
  obtain ⟨r', hu', hcase⟩ := execWriteall_next hstep
  obtain rfl : r = r' := UnitState.run.inj (hu.symm.trans hu')
  rw [outcome_of_run hu, outcome_of_writeall hd]
  obtain ⟨-, e, he, rfl⟩ | ⟨hp, -, rfl⟩ | ⟨-, a, -, rfl⟩ | ⟨hp, a, ha, rfl⟩ | ⟨hp, rfl⟩ := hcase
  · rw [outcome_of_idle rfl, writeallOutcome, he]
  · obtain ⟨hi, -⟩ := runInv_check (h.running hu) hp
    rw [outcome_of_run rfl, outcome_of_writeall (by exact hd), writeallOutcome_withRun, hi]
  · rw [outcome_of_run rfl, outcome_of_writeall (by exact hd), writeallOutcome_withRun]
  · obtain ⟨hview, -, -, hph⟩ := writeallInv_of_runInv (h.running hu) hd (by simp [hp])
    simp only [hp] at hph
    obtain ⟨-, a', ha', htmp⟩ := hph
    obtain rfl : a = a' := Option.some.inj (ha.symm.trans ha')
    rw [outcome_of_run rfl, outcome_of_writeall (by exact hd), writeallOutcome_withRun, htmp, setWidth_setWidth_bits,
      writeallOutcome_store hview ha]
  · obtain ⟨hview, -, -, hph⟩ := writeallInv_of_runInv (h.running hu) hd (by simp [hp])
    simp only [hp] at hph
    obtain ⟨hlen, -⟩ := h.viewEntries hu (.inr ⟨v, hd⟩)
    rw [outcome_of_idle rfl, writeallOutcome, hview, hph, ← hlen, List.drop_length]
    rfl

end Keeps

theorem unitStep_outcome {s t : State} (h : Inv s) (hstep : unitStep s = .next t) : t.outcome = s.outcome := by
  obtain ⟨-, rfl⟩ | ⟨r, hu, ⟨why, hd, -, rfl⟩ | ⟨i, hd, hexec⟩⟩ := unitStep_next hstep
  · rfl
  · rw [outcome_of_idle rfl, outcome_of_run hu, outcome_of_illegal hd]
  · cases i with
    | get w b => exact execGet_outcome hu hd hexec
    | set w b v => exact execSet_outcome hu hd hexec
    | read w n b => exact consensusStep_outcome hu h hd (.inl rfl) outcome_of_read readStatus_of_part hexec
    | hasdis w n b => exact consensusStep_outcome hu h hd (.inr rfl) outcome_of_hasdis hasdisStatus_of_part hexec
    | writeall w n b v => exact execWriteall_outcome hu h hd hexec

/-! ### Whole commands -/

/-- With the host silent, a run at least as long as the steps left ends in the outcome (41_multitarget.md R153,
R154). -/
theorem run_to_outcome {m : Nat} {s : State} (h : Inv s) (ht : s.turns = []) (hm : s.stepsLeft ≤ m) :
    Sys2Proof.core.run m s = .next s.outcome := by
  induction m generalizing s with
  | zero =>
    cases hu : s.unit with
    | idle => rw [outcome_of_idle hu, run_idle 0 hu ht]
    | run r =>
      obtain ⟨t, hstep⟩ := unitStep_completes h
      have hlt := unitStep_stepsLeft_lt h hu hstep
      omega
  | succ m ih =>
    cases hu : s.unit with
    | idle => rw [outcome_of_idle hu, run_idle _ hu ht]
    | run r =>
      obtain ⟨t, hstep⟩ := unitStep_completes h
      have hlt := unitStep_stepsLeft_lt h hu hstep
      rw [run_succ m s t ((step_of_no_turns ht).trans hstep), ← unitStep_outcome h hstep]
      exact ih (unitStep_keeps_inv h hstep) ((unitStep_keeps_turns hstep).trans ht) (by omega)

/-- At command start the outcome is the atomic reference function's (41_multitarget.md R154). -/
theorem outcome_commandStart (c : BitVec 32) (s : State) : (commandStart c s).outcome = atomicCommand c s := by
  rw [outcome_of_run rfl, outcome_eq_atomicRun rfl]
  rfl

/-- Settles O43: command start keeps the invariant, its outcome is the atomic command's, and the run reaches it. -/
theorem unitStepsEqualAtomicCommand : Obligations.UnitStepsEqualAtomicCommand := by
  intro s c h _ ht
  have hstart : Inv (commandStart c s) := h.commandStart c
  rw [← outcome_commandStart]
  exact run_to_outcome hstart ht hstart.stepsLeft_le

end Sys2Proof.Machine
end

section
/-! PROOFS. One unit step of READ, HASDIS and WRITEALL, phase by phase (41_multitarget.md R131, R140, R141, R149, R151,
R152), and that a step of the machine is the unit step of the decoded command (R150, R151). -/

namespace Sys2Proof.Machine

/-! ### What ends a command -/

/-- STATUS at the end of a command: ERR holds the code, BUSY is 0, and no result field changes (60_exceptions.md
R178). -/
theorem endStatus_fields (e : ErrCode) (v : BitVec 16) :
    statusErr (endStatus e v) = errBits e ∧ statusBusy (endStatus e v) = false ∧
    statusBit (endStatus e v) = statusBit v ∧ statusTri (endStatus e v) = statusTri v ∧
    statusDis (endStatus e v) = statusDis v ∧ statusAll (endStatus e v) = statusAll v ∧
    statusAny (endStatus e v) = statusAny v ∧ statusReserved (endStatus e v) = statusReserved v :=
  ⟨endStatus_err e v, endStatus_busy e v, endStatus_bit e v, endStatus_tri e v, endStatus_dis e v,
    endStatus_all e v, endStatus_any e v, endStatus_reserved e v⟩

/-- The code of a WRITEALL, in the bits of ERR (41_multitarget.md R149). -/
theorem errBits_writeallErr (x : BitVec 64) : errBits (writeallErr x) = if x = 0#64 then 0#3 else 3#3 := by
  unfold writeallErr
  split_ifs <;> rfl

/-- The accumulators disagree where ALL and ANY differ (41_multitarget.md R137). -/
theorem accDis_iff {acc : Acc} : accDis acc = true ↔ acc.all ≠ acc.any := bne_iff_ne

/-! ### The view's check -/

/-- The view check as its four tests in order (41_multitarget.md R131, R132). -/
theorem viewCheck_eq (cfg : Config) (w : Width) (n : BitVec 6) (b : Nat) (snap : Snapshot) :
    viewCheck cfg w n.toNat b snap =
      if ∃ a ∈ snap.handles, cfg.nslot ≤ a.toNat then some .illegalCommand
      else if n = 0#6 then some .emptyView
      else if ∃ a ∈ snap.handles, cfg.slotCap a.toNat ≠ some w then some .capacityMismatch
      else if w.bits ≤ b then some .range
      else none := by
  have hn : n.toNat = 0 ↔ n = 0#6 := not_iff_not.mp toNat_ne_zero_iff
  simp only [viewCheck, List.any_eq_true, decide_eq_true_eq, hn]

section Step
variable {s : State} {r : RunState} {w : Width} {n : BitVec 6} {b : BitVec 16} {v : Bool} {a : BitVec 8}
  (hu : s.unit = .run r)
include hu

/-- The Check step of the three view commands is one (41_multitarget.md R151, R152). -/
theorem exec_check {i : Instr} (hp : r.ph = .check)
    (hi : i = .read w n b ∨ i = .hasdis w n b ∨ i = .writeall w n b v) : exec i s = viewCheckStep w n b r s := by
  obtain rfl | rfl | rfl := hi
  · simp only [exec, execRead, consensusStep, onRun, hu, hp]
  · simp only [exec, execHasdis, consensusStep, onRun, hu, hp]
  · simp only [exec, execWriteall, writeallStep, onRun, hu, hp]

/-- READ and HASDIS in Load at entry i, forwards (41_multitarget.md R151). -/
theorem consensusStep_load {fin : Acc → BitVec 16 → BitVec 16} (hp : r.ph = .load)
    (ha : r.snap.handles[r.i]? = some a) {acc : Acc}
    (hacc : accStep r.i r.acc (bitGet w (memRead w a s) b.toNat) = acc) :
    consensusStep w n b s fin = .next (s.withRun { r with
      i := r.i + 1, acc := acc, ph := if r.i + 1 = n.toNat ∨ accDis acc = true then .finish else .load }) := by
  simp only [consensusStep, onRun, hu, hp, consensusLoad, ha, hacc]

/-- READ and HASDIS in Finish, forwards (41_multitarget.md R151). -/
theorem consensusStep_finish (fin : Acc → BitVec 16 → BitVec 16) (hp : r.ph = .finish) :
    consensusStep w n b s fin = .next (s.finishWith (fin r.acc s.status)) := by
  simp only [consensusStep, onRun, hu, hp]

/-- WRITEALL in Load at entry i, forwards (41_multitarget.md R152). -/
theorem execWriteall_load (hp : r.ph = .load) (ha : r.snap.handles[r.i]? = some a) :
    exec (.writeall w n b v) s =
      .next (s.withRun { r with tmp := (memRead w a s).setWidth 256, ph := .store }) := by
  simp only [exec, execWriteall, writeallStep, onRun, hu, hp, writeallLoad, ha]

/-- WRITEALL in Finish, forwards (41_multitarget.md R149, R152). -/
theorem execWriteall_finish (hp : r.ph = .finish) :
    exec (.writeall w n b v) s = .next (raiseError (writeallErr s.wfail) s) := by
  simp only [exec, execWriteall, writeallStep, onRun, hu, hp]

end Step

/-! ### The statements about one unit step -/

/-- Settles O33: the branches of the view check in their order, each raising its code on STATUS alone. -/
theorem viewChecksInOrder : Obligations.ViewChecksInOrder := by
  intro s r w n b v i hu hp hi ends
  have hend : ∀ {e}, viewCheck s.cfg w n.toNat b.toNat r.snap = some e → ends (errBits e) := fun {e} he =>
    ⟨_, by rw [exec_check hu hp hi, viewCheckStep, he]; rfl, endStatus_fields e s.status⟩
  have hview := viewCheck_eq s.cfg w n b.toNat r.snap
  split_ifs at hview ⊢ with hslot hempty hcap hrange
  · exact hend hview
  · exact hend hview
  · exact hend hview
  · exact hend hview
  · rw [exec_check hu hp hi, viewCheckStep, hview]
    rfl

/-- Settles O34: on a legal index the mask test is the slot's bit, and the step of both commands is one. -/
theorem consensusLoadAccumulates : Obligations.ConsensusLoadAccumulates := by
  intro s r w n b a i hu hp ha hb hi x acc ph
  have hbit : bitGet w (memRead w a s) b.toNat = x := by
    rw [bitGet_eq_getLsbD _ hb, getLsbD_memRead, decide_eq_true hb, Bool.true_and]
  have hacc : accStep r.i r.acc (bitGet w (memRead w a s) b.toNat) = acc := by rw [hbit]; rfl
  have hph : (if r.i + 1 = n.toNat ∨ accDis acc = true then Phase.finish else .load) = ph := by
    simp only [accDis_iff, ph]
  rw [← hph]
  obtain rfl | rfl := hi
  · exact consensusStep_load hu hp ha hacc
  · exact consensusStep_load hu hp ha hacc

/-- Settles O35: READ's STATUS field by field. -/
theorem readFinishWritesTriAllAny : Obligations.ReadFinishWritesTriAllAny := by
  intro s r w n b hu hp
  obtain ⟨hbusy, herr, hbit, htri, hdis, hall, hany, hres⟩ := readStatus_fields r.acc s.status
  refine ⟨_, consensusStep_finish hu readStatus hp, ?_, hall, hany, herr, hbusy, hbit, hdis, hres⟩
  rw [htri, triBits_accTri]
  simp only [accDis_iff]

/-- Settles O36: HASDIS's STATUS field by field. -/
theorem hasdisFinishWritesDisAllAny : Obligations.HasdisFinishWritesDisAllAny := by
  intro s r w n b hu hp
  obtain ⟨hbusy, herr, hbit, htri, hdis, hall, hany, hres⟩ := hasdisStatus_fields r.acc s.status
  refine ⟨_, consensusStep_finish hu hasdisStatus hp, ?_, hall, hany, herr, hbusy, hbit, htri, hres⟩
  rw [hdis, Bool.eq_iff_iff, accDis_iff, decide_eq_true_iff]

/-- Settles O37: tmp is the container that MemRead gives, zero-extended. -/
theorem writeallLoadFetchesTheContainer : Obligations.WriteallLoadFetchesTheContainer :=
  fun _ _ w _ _ _ _ hu hp ha => ⟨_, execWriteall_load hu hp ha, setWidth_bits_256 w _⟩

/-- Settles O39: Finish raises the code that WFAIL gives. -/
theorem writeallFinishReportsPartialWrite : Obligations.WriteallFinishReportsPartialWrite := by
  intro s r w n b v hu hp
  obtain ⟨herr, hrest⟩ := endStatus_fields (writeallErr s.wfail) s.status
  exact ⟨_, execWriteall_finish hu hp, herr.trans (errBits_writeallErr s.wfail), hrest⟩

/-! ### The unit's turn -/

/-- With no turn pending, the word placed is a host write of it to CMD (log 5). -/
theorem withFetchWord_of_no_turns {s : State} (ht : s.turns = []) (c : BitVec 32) :
    s.withFetchWord 32 c.toNat = commandStart c s := by
  have hword : BitVec.ofNat 32 (c.toNat % 2 ^ 32) = c := by
    rw [Nat.mod_eq_of_lt c.isLt, BitVec.ofNat_toNat, BitVec.setWidth_eq]
  simp only [State.withFetchWord, withCommand, hword, ht, List.isEmpty_nil, if_true]
  rw [← ht]
  rfl

/-- Settles O14: each of the three turns is the unit's step, on a state whose unit is the same. -/
theorem stepRunsTheDecodedInstruction : Obligations.StepRunsTheDecodedInstruction := by
  intro s i
  refine ⟨fun r rest hu hd => ⟨fun ht => ?none, fun ht => ?unit, fun ht hb => ?wait⟩, fun c hd ht => ?fetched⟩
  case none => rw [step_of_no_turns ht, unitStep_of_command hu hd]
  case unit =>
    rw [step_of_turn ht]
    exact unitStep_of_command hu hd
  case wait =>
    rw [step_of_wait_busy ht hb]
    exact unitStep_of_command hu hd
  case fetched =>
    rw [withFetchWord_of_no_turns ht, step_of_no_turns (by exact ht)]
    exact unitStep_of_command rfl hd

end Sys2Proof.Machine
end

section
/-! PROOFS. The forms of the consensus reduction (41_multitarget.md R135 to R137), and that a machine in the invariant
goes on and comes to rest (R151 to R153). -/

namespace Sys2Proof.Machine

/-! ### The reduction -/

/-- The disagreement is no agreement flag missing: d_i = b_i ⊕ b_0 (41_multitarget.md R135, R136). -/
theorem not_disOf_cons (b0 : Bool) (bs : List Bool) : (!disOf (b0 :: bs)) = bs.all fun x => !(x ^^ b0) := by
  rw [disOf, List.not_any_eq_all_not]

/-- Past entry 0 the accumulators take a bit alike at every entry (41_multitarget.md R151). -/
theorem accStep_of_pos {i : Nat} (hi : 0 < i) (acc : Acc) (x : Bool) : accStep i acc x = accStep 1 acc x := by
  rw [accStep, if_neg (Nat.ne_of_gt hi), accStep, if_neg Nat.one_ne_zero]

/-- Loading more entries one by one extends the reduction of those loaded before (41_multitarget.md R151). -/
theorem foldl_accStep {bs : List Bool} (hne : bs ≠ []) (cs : List Bool) :
    cs.foldl (fun a x => accStep 1 a x) (accOf bs) = accOf (bs ++ cs) := by
  induction cs generalizing bs with
  | nil => rw [List.foldl_nil, List.append_nil]
  | cons c cs ih =>
    rw [List.foldl_cons, ← accStep_of_pos (List.length_pos_of_ne_nil hne), ← accOf_append,
      ih (List.append_ne_nil_of_left_ne_nil hne [c]), List.append_assoc, List.singleton_append]

/-- With no disagreement ALL and ANY are b_0, as no bit is unlike it (41_multitarget.md R137). -/
theorem all_any_of_agree {b0 : Bool} {bs : List Bool} (h : disOf (b0 :: bs) = false) :
    (b0 :: bs).all id = b0 ∧ (b0 :: bs).any id = b0 := by
  have hdis : accDis (accOf (b0 :: bs)) = false := by rw [← disOf_eq_accDis _ (List.cons_ne_nil b0 bs), h]
  have heq : (b0 :: bs).all id = (b0 :: bs).any id := by simpa [accDis, accOf] using hdis
  have hfirst : (b0 :: bs).all id = b0 ∨ (b0 :: bs).any id = b0 := by cases b0 <;> simp
  rw [← heq] at hfirst ⊢
  exact ⟨hfirst.elim id id, hfirst.elim id id⟩

/-- Settles O42: the accumulators' laws, put side by side for a list with a first entry. -/
theorem reductionFormsAgree : Obligations.ReductionFormsAgree := by
  intro b0 bs
  have hne := List.cons_ne_nil b0 bs
  have hdis : disOf (b0 :: bs) = ((b0 :: bs).any id && !(b0 :: bs).all id) :=
    (disOf_eq_accDis _ hne).trans (accDis_accOf _ hne)
  refine ⟨hdis, not_disOf_cons b0 bs, all_any_of_agree, fun h => ?_,
    fun acc => ⟨?_, (disOf_eq_accDis _ hne).symm⟩⟩
  · rw [hdis, Bool.and_eq_true, Bool.not_eq_true'] at h
    exact h.symm
  · have hfirst : accStep 0 acc b0 = accOf [b0] := (accOf_append [] b0).symm
    rw [hfirst, foldl_accStep (List.cons_ne_nil b0 []), List.singleton_append]

/-! ### Progress -/

/-- A host slot access is allowed where the slot exists and no running view lists it (70_reset_and_hazards.md R210). -/
theorem hostSlot_completes {a : BitVec 8} {s : State} (f : Width → State) (hw : s.cfg.slotCap a.toNat ≠ none)
    (hl : runningViewLists a s = false) : ∃ t, hostSlot a s f = .next t := by
  obtain ⟨w, hw⟩ := Option.ne_none_iff_exists'.mp hw
  exact ⟨_, hostSlot_of_unlisted f hw hl⟩

/-- A poll of WAIT never blocks: while BUSY = 1 the unit has a step (30_encoding.md R94). -/
theorem waitStep_completes {s : State} (h : Inv s) : ∃ t, waitStep s = .next t := by
  unfold waitStep
  split_ifs
  · exact unitStep_completes ((h.withHostRead _).withTurns _)
  · exact ⟨_, rfl⟩

/-- Settles O6: the unit and WAIT always move, and an allowed access finds BUSY = 0 or an unlisted slot. -/
theorem onlyForbiddenTurnsStop : Obligations.OnlyForbiddenTurnsStop := by
  intro s h hallowed
  cases ht : s.turns with
  | nil =>
    rw [step_of_no_turns ht]
    exact unitStep_completes h
  | cons x rest =>
    have hrest : Inv (s.withTurns rest) := h.withTurns rest
    rw [step_of_turn ht]
    simp only [turnAllowed, ht] at hallowed
    cases x with
    | unit => exact unitStep_completes hrest
    | wait => exact waitStep_completes hrest
    | reset => exact ⟨_, rfl⟩
    | host access =>
      cases access with
      | readReg n => exact ⟨_, rfl⟩
      | writeReg n v => exact ⟨_, (step_of_turn ht).symm.trans (step_of_writeReg hallowed ht)⟩
      | loadSlot a => exact hostSlot_completes _ hallowed.1 hallowed.2
      | storeSlot a v => exact hostSlot_completes _ hallowed.1 hallowed.2
      | storeSigned a z => exact hostSlot_completes _ hallowed.1 hallowed.2

/-! ### The end of a command -/

/-- The atomic reference function leaves the unit idle, whatever the command (41_multitarget.md R154). -/
theorem atomicRun_unit (snap : Snapshot) (s : State) : (atomicRun snap s).unit = .idle := by
  unfold atomicRun
  repeat' split
  all_goals rfl

/-- Where a command ends, the unit is idle (41_multitarget.md R153). -/
theorem outcome_unit (s : State) : s.outcome.unit = .idle := by
  cases hu : s.unit with
  | idle => rw [outcome_of_idle hu, hu]
  | run r =>
    rw [outcome_of_run hu, RunState.outcome]
    split
    · unfold writeallOutcome
      split <;> rfl
    · exact atomicRun_unit _ _

/-- Settles O44: at most 2·NMAX + 2 steps are left, and they lead to the command's outcome. -/
theorem everyCommandEndsInBoundedSteps : Obligations.EveryCommandEndsInBoundedSteps :=
  fun s h ht => ⟨_, run_to_outcome h ht h.stepsLeft_le, outcome_unit s⟩

end Sys2Proof.Machine
end

section
/-! PROOFS. READ and HASDIS of one view from start to end (41_multitarget.md R138, R142, R143): both come out of the
same check and the same bits, and differ only in the STATUS they write. -/

namespace Sys2Proof.Machine

/-! ### STATUS over all the targets' bits -/

/-- READ's STATUS: TRI is the tri-state of the bits (41_multitarget.md R138, R140). -/
theorem atomicReadStatus_tri (bs : List Bool) (v : BitVec 16) :
    statusTri (atomicReadStatus bs v) = triBits (triOf bs) := by
  obtain ⟨-, htri, -⟩ := setField_tri_fields v (triBits (triOf bs))
  obtain ⟨-, hred, -⟩ := reductionStatus_fields (accOf bs) (setField v 5 (triBits (triOf bs)))
  rw [atomicReadStatus, endStatus_tri, hred, htri]

/-- HASDIS's STATUS: DIS is the disagreement of the bits (41_multitarget.md R136, R141). -/
theorem atomicHasdisStatus_dis (bs : List Bool) (v : BitVec 16) :
    statusDis (atomicHasdisStatus bs v) = disOf bs := by
  obtain ⟨-, -, hdis, -⟩ := setField_dis_fields v (disOf bs)
  obtain ⟨-, -, hred, -⟩ := reductionStatus_fields (accOf bs) (setField v 7 (BitVec.ofBool (disOf bs)))
  rw [atomicHasdisStatus, endStatus_dis, hred, hdis]

/-- TRI as the targets' bits give it (41_multitarget.md R138). -/
theorem triBits_triOf (bs : List Bool) :
    triBits (triOf bs) = if disOf bs = true then 2#2 else if bs.headD false = true then 1#2 else 0#2 := by
  unfold triOf
  split_ifs <;> rfl

/-- TRI is mixed exactly at a disagreement (41_multitarget.md R138). -/
theorem triBits_triOf_eq_mixed (bs : List Bool) : triBits (triOf bs) = 2#2 ↔ disOf bs = true := by
  rw [triBits_triOf]
  split_ifs with hdis <;> simp [hdis]

/-! ### One command over a view -/

/-- The handles of the view of `n` entries (41_multitarget.md R130). -/
def viewHandles (n : BitVec 6) (s : State) : List (BitVec 8) := s.tgt.take (min n.toNat s.cfg.nmax)

/-- The error that a READ or HASDIS of the view ends with: more entries than NMAX make its word illegal (30_encoding.md
R88), and then come the view's checks (41_multitarget.md R131). -/
def viewError (w : Width) (n : BitVec 6) (b : BitVec 16) (s : State) : Option ErrCode :=
  if s.cfg.nmax < n.toNat then some .illegalCommand
  else viewCheck s.cfg w n.toNat b.toNat { snapshot s.cmd s with handles := viewHandles n s }

/-- `i` is READ or HASDIS, and `fin` is the STATUS it writes over the targets' bits (41_multitarget.md R140, R141). -/
def ConsensusWrites (i : Instr) (fin : List Bool → BitVec 16 → BitVec 16) (w : Width) (n : BitVec 6) (b : BitVec 16) :
    Prop :=
  (i = .read w n b ∧ fin = atomicReadStatus) ∨ (i = .hasdis w n b ∧ fin = atomicHasdisStatus)

section View
variable {s : State} {w : Width} {n : BitVec 6} {b : BitVec 16} {i : Instr} {fin : List Bool → BitVec 16 → BitVec 16}

/-- The view check rests on the handles alone (41_multitarget.md R131). -/
theorem viewCheck_congr {snap snap' : Snapshot} (h : snap'.handles = snap.handles) (cfg : Config) (w : Width)
    (n b : Nat) : viewCheck cfg w n b snap' = viewCheck cfg w n b snap := by
  simp only [viewCheck, h]

/-- The view of a word of `n` entries (41_multitarget.md R130, R150). -/
theorem snapshot_handles_of_ntField {c : BitVec 32} (h : ntField c = n) : (snapshot c s).handles = viewHandles n s := by
  rw [snapshot, h, viewHandles]

theorem ConsensusWrites.ntField_encode (h : ConsensusWrites i fin w n b) : ntField (encode i) = n := by
  obtain ⟨rfl, -⟩ | ⟨rfl, -⟩ := h
  · obtain ⟨-, -, -, -, hnt, -⟩ := Laws.EncodedFields.read w n b
    exact hnt
  · obtain ⟨-, -, -, -, hnt, -⟩ := Laws.EncodedFields.hasdis w n b
    exact hnt

/-- More entries than NMAX make the word illegal (30_encoding.md R88). -/
theorem ConsensusWrites.decode_tooMany {nmax : Nat} (h : ConsensusWrites i fin w n b) (hn : nmax < n.toNat) :
    decode nmax (encode i) = .illegal .tooManyTargets := by
  obtain ⟨rfl, -⟩ | ⟨rfl, -⟩ := h
  · obtain ⟨hrsv, hop, hw, hv, hnt, -⟩ := Laws.EncodedFields.read w n b
    simp [decode, hrsv, hop, hw, hv, hnt, hn]
  · obtain ⟨hrsv, hop, hw, hv, hnt, -⟩ := Laws.EncodedFields.hasdis w n b
    simp [decode, hrsv, hop, hw, hv, hnt, hn]

/-- A word that does not decode ends with IllegalCommand (60_exceptions.md R175). -/
theorem atomicCommand_of_illegal {c : BitVec 32} {why : Illegal} (hd : decode s.cfg.nmax c = .illegal why) :
    atomicCommand c s = raiseError .illegalCommand (commandStart c s) := by
  rw [← outcome_commandStart, outcome_of_run rfl]
  exact outcome_of_illegal hd

/-- READ and HASDIS of at most NMAX entries end as their rules say (41_multitarget.md R140, R141). -/
theorem ConsensusWrites.atomicCommand_eq (h : ConsensusWrites i fin w n b) (hn : n.toNat ≤ s.cfg.nmax) :
    atomicCommand (encode i) s =
      consensusOutcome w n.toNat b.toNat (snapshot (encode i) s) fin (commandStart (encode i) s) := by
  have hwf : i.wellFormed s.cfg.nmax = true := by
    obtain ⟨rfl, -⟩ | ⟨rfl, -⟩ := h <;> exact decide_eq_true hn
  have hd := decodeOfEncodeIsTheCommand s.cfg.nmax i hwf
  rw [← outcome_commandStart, outcome_of_run rfl]
  obtain ⟨rfl, rfl⟩ | ⟨rfl, rfl⟩ := h
  · exact outcome_of_read hd
  · exact outcome_of_hasdis hd

/-- STATUS after READ or HASDIS: the code of the view's error alone, else `fin` over the targets' bits
(41_multitarget.md R131, R140, R141). -/
theorem ConsensusWrites.atomicCommand_status (h : ConsensusWrites i fin w n b) :
    (atomicCommand (encode i) s).status =
      (viewError w n b s).elim (fin (viewBits w b.toNat (viewHandles n s) s) startStatus)
        (endStatus · startStatus) := by
  by_cases hn : s.cfg.nmax < n.toNat
  · rw [viewError, if_pos hn, atomicCommand_of_illegal (h.decode_tooMany hn)]
    rfl
  · have hview := snapshot_handles_of_ntField (s := s) h.ntField_encode
    rw [h.atomicCommand_eq (Nat.le_of_not_lt hn), viewError, if_neg hn, consensusOutcome, commandStart_cfg,
      viewCheck_congr (snap := { snapshot s.cmd s with handles := viewHandles n s }) hview, hview]
    cases viewCheck s.cfg w n.toNat b.toNat { snapshot s.cmd s with handles := viewHandles n s } <;> rfl

end View

/-! ### The statements about READ and HASDIS -/

/-- Settles O46: a view's error leaves TRI and DIS at 0, and without one both come from the same bits. -/
theorem readMixedIffHasdis : Obligations.ReadMixedIffHasdis := by
  intro s w n b h hu ht
  have hread : (atomicCommand (encode (.read w n b)) s).status = _ :=
    ConsensusWrites.atomicCommand_status (.inl ⟨rfl, rfl⟩)
  have hhasdis : (atomicCommand (encode (.hasdis w n b)) s).status = _ :=
    ConsensusWrites.atomicCommand_status (.inr ⟨rfl, rfl⟩)
  refine ⟨_, _, unitStepsEqualAtomicCommand s _ h hu ht, unitStepsEqualAtomicCommand s _ h hu ht,
    atomicRun_unit _ _, atomicRun_unit _ _, ?_⟩
  rw [hread, hhasdis]
  cases viewError w n b s with
  | some e =>
    obtain ⟨-, -, -, htri, hdis, -⟩ := startStatus_fields
    simp only [Option.elim_some, endStatus_tri, endStatus_dis, htri, hdis]
    decide
  | none =>
    rw [Option.elim_none, Option.elim_none, atomicReadStatus_tri, atomicHasdisStatus_dis]
    exact triBits_triOf_eq_mixed _

/-- The view of one entry is the first target (41_multitarget.md R143). -/
theorem viewHandles_one {s : State} {a : BitVec 8} (h : Inv s) (ha : s.tgt[0]? = some a) :
    1 ≤ s.cfg.nmax ∧ viewHandles 1#6 s = [a] := by
  obtain ⟨hpos, hget⟩ := List.getElem?_eq_some_iff.mp ha
  have hn : 1 ≤ s.cfg.nmax := h.tgtLength ▸ hpos
  refine ⟨hn, ?_⟩
  rw [viewHandles, show (1#6).toNat = 1 from rfl, Nat.min_eq_left hn, List.take_one, List.head?_eq_getElem?, ha]
  rfl

/-- Settles O47: the one bit does not disagree with itself. -/
theorem singleTargetNeverMixed : Obligations.SingleTargetNeverMixed := by
  intro s w b a h hu ht ha hw hb
  obtain ⟨hn, hview⟩ := viewHandles_one h ha
  have hbit : viewBits w b.toNat (viewHandles 1#6 s) s = [(slotLookup s.slots a.toNat).getLsbD b.toNat] := by
    rw [hview, viewBits, List.map_singleton, getLsbD_memRead, decide_eq_true hb, Bool.true_and]
  have hlegal : viewError w 1#6 b s = none := by
    rw [viewError, if_neg (by exact Nat.not_lt.mpr hn), hview]
    exact viewCheck_eq_none.mpr ⟨Nat.one_ne_zero, hb, by simpa using hw⟩
  have hread : (atomicCommand (encode (.read w 1#6 b)) s).status = _ :=
    ConsensusWrites.atomicCommand_status (.inl ⟨rfl, rfl⟩)
  have hhasdis : (atomicCommand (encode (.hasdis w 1#6 b)) s).status = _ :=
    ConsensusWrites.atomicCommand_status (.inr ⟨rfl, rfl⟩)
  rw [hlegal, Option.elim_none, hbit] at hread hhasdis
  refine ⟨_, _, unitStepsEqualAtomicCommand s _ h hu ht, unitStepsEqualAtomicCommand s _ h hu ht,
    atomicRun_unit _ _, atomicRun_unit _ _, ?_, ?_, ?_, ?_⟩
  · rw [hread]
    exact endStatus_err _ _
  · rw [hhasdis]
    exact endStatus_err _ _
  · rw [hread, atomicReadStatus_tri, triBits_triOf]
    rfl
  · rw [hhasdis, atomicHasdisStatus_dis]
    rfl

end Sys2Proof.Machine
end

section
/-! PROOFS. WRITEALL from start to end (41_multitarget.md R145 to R149, R156): what its loop leaves in the bitmaps and
in every bit of every slot, for any answers of the storage oracle and with repeated handles. -/

namespace Sys2Proof.Machine

/-! ### The slots' bits -/

/-- A slot that does not hold 0 is listed with what it holds (log 1). -/
theorem mem_of_slotLookup_ne_zero {m : SlotMemory} {t : Nat} (h : slotLookup m t ≠ 0#256) :
    (t, slotLookup m t) ∈ m := by
  induction m with
  | nil => exact absurd rfl h
  | cons c m ih =>
    obtain ⟨a, x⟩ := c
    rw [slotLookup_cons] at h ⊢
    by_cases hat : a = t
    · rw [if_pos hat, hat]
      exact List.mem_cons_self
    · rw [if_neg hat] at h ⊢
      exact List.mem_cons_of_mem _ (ih h)

/-- No bit of a slot stands at or above the slot's width (10_state.md R25). -/
theorem getLsbD_slotLookup_ge {cfg : Config} {m : SlotMemory} {t j : Nat} {w : Width} (hfit : slotsFit cfg m)
    (hw : cfg.slotCap t = some w) (hj : w.bits ≤ j) : (slotLookup m t).getLsbD j = false := by
  by_cases h0 : slotLookup m t = 0#256
  · rw [h0, BitVec.getLsbD_zero]
  · obtain ⟨w', hw', hlt⟩ := hfit _ (mem_of_slotLookup_ne_zero h0)
    obtain rfl : w = w' := Option.some.inj (hw.symm.trans hw')
    exact Nat.testBit_lt_two_pow (Nat.lt_of_lt_of_le hlt (Nat.pow_le_pow_right (by omega) hj))

/-- The container that WRITEALL stores in a slot of its width is the slot's with bit b at v (41_multitarget.md R145). -/
theorem getLsbD_storedContainer {s : State} {w : Width} {b : Nat} {a : BitVec 8} (v : Bool)
    (hfit : slotsFit s.cfg s.slots) (hw : s.cfg.slotCap a.toNat = some w) (hb : b < w.bits) (j : Nat) :
    ((bitSetWhole w (memRead w a s) b v).setWidth 256).getLsbD j =
      if j = b then v else (slotLookup s.slots a.toNat).getLsbD j := by
  rw [← bitSet_eq_whole _ v hb, memRead, getLsbD_writeallContainer hb]
  by_cases hj : j < w.bits
  · rw [decide_eq_true hj, Bool.true_and]
  · have hjb : j ≠ b := by omega
    rw [decide_eq_false hj, Bool.false_and, if_neg hjb, getLsbD_slotLookup_ge hfit hw (Nat.le_of_not_lt hj)]

/-! ### The loop -/

/-- An entry at or above `i` is reported in neither bitmap yet. -/
theorem ReportsBelow.wok_fresh {i j : Nat} {ok fail : BitVec 64} (h : ReportsBelow i ok fail) (hj : i ≤ j) :
    ok.getLsbD j = false := by
  have hnone : (ok ||| fail).getLsbD j = false := by
    rw [h.2, BitVec.getLsbD_ofNat, Nat.testBit_two_pow_sub_one, decide_eq_false (Nat.not_lt.mpr hj), Bool.and_false]
  rw [BitVec.getLsbD_or] at hnone
  exact (Bool.or_eq_false_iff.mp hnone).1

/-- WRITEALL's loop stands at entry `i` with the handles `l` to come: the slots are legal, each slot to come has width
`w`, and exactly the entries below `i` are reported (41_multitarget.md R145, R148). -/
structure StoresFrom (w : Width) (i : Nat) (l : List (BitVec 8)) (s : State) : Prop where
  canonical : Memory.wf s.slots
  fit : slotsFit s.cfg s.slots
  width : ∀ a ∈ l, s.cfg.slotCap a.toNat = some w
  reports : ReportsBelow i s.wok s.wfail
  room : i + l.length ≤ 64

/-- Some accepted entry, of those from `i` on with handles `l`, names slot `t`. -/
def Accepted (l : List (BitVec 8)) (i : Nat) (ok : BitVec 64) (t : Nat) : Prop :=
  ∃ k a, l[k]? = some a ∧ a.toNat = t ∧ ok.getLsbD (i + k) = true

theorem not_accepted_nil (i : Nat) (ok : BitVec 64) (t : Nat) : ¬ Accepted [] i ok t := by
  rintro ⟨k, a, hk, -⟩
  simp at hk

/-- The first entry is accepted, or a later one. -/
theorem accepted_cons {a : BitVec 8} {l : List (BitVec 8)} {i : Nat} {ok : BitVec 64} {t : Nat} :
    Accepted (a :: l) i ok t ↔ (a.toNat = t ∧ ok.getLsbD i = true) ∨ Accepted l (i + 1) ok t := by
  constructor
  · rintro ⟨k, x, hk, hx, hok⟩
    cases k with
    | zero =>
      obtain rfl : a = x := Option.some.inj hk
      exact .inl ⟨hx, hok⟩
    | succ k => exact .inr ⟨k, x, hk, hx, by rwa [Nat.add_right_comm, Nat.add_assoc]⟩
  · rintro (⟨ha, hok⟩ | ⟨k, x, hk, hx, hok⟩)
    · exact ⟨0, a, rfl, ha, hok⟩
    · exact ⟨k + 1, x, hk, hx, by rwa [Nat.add_right_comm, Nat.add_assoc] at hok⟩

section Loop
variable {s : State} {w : Width} {i : Nat} {a : BitVec 8} {l : List (BitVec 8)}

/-- The store of entry `i` takes the loop to entry `i + 1`, whatever the answer (41_multitarget.md R147, R148). -/
theorem StoresFrom.next (h : StoresFrom w i (a :: l) s) (c : BitVec w.bits) :
    StoresFrom w (i + 1) l (storeEntry w i a c s) := by
  have hwidth : ∀ x ∈ l, s.cfg.slotCap x.toNat = some w := fun x hx => h.width x (List.mem_cons_of_mem a hx)
  have hroom : i + (l.length + 1) ≤ 64 := h.room
  have hi : i < 64 := by omega
  obtain ⟨-, e⟩ | ⟨-, e⟩ := storeEntry_cases w i a c s <;> rw [e]
  · exact ⟨slotUpdate_wf h.canonical _ _, slotsFit_update h.canonical h.fit (h.width a List.mem_cons_self) c, hwidth,
      h.reports.report hi, by omega⟩
  · exact ⟨h.canonical, h.fit, hwidth, (h.reports.symm.report hi).symm, by omega⟩

/-- The store of entry `i` reports no other entry in WOK (41_multitarget.md R148). -/
theorem storeEntry_wok_other (c : BitVec w.bits) {j : Nat} (hj : j ≠ i) :
    (storeEntry w i a c s).wok.getLsbD j = s.wok.getLsbD j := by
  obtain ⟨-, e⟩ | ⟨-, e⟩ := storeEntry_cases w i a c s <;> rw [e]
  simp only [BitVec.getLsbD_or, getLsbD_one_shiftLeft, hj, and_false, decide_false, Bool.or_false]

/-- The entries stored later leave an entry's report as it is (41_multitarget.md R148). -/
theorem atomicStores_wok_below {b : Nat} {v : Bool} {j : Nat} (hj : j < i) :
    (atomicStores w b v i l s).wok.getLsbD j = s.wok.getLsbD j := by
  induction l generalizing i s with
  | nil => rfl
  | cons a l ih => rw [atomicStores, ih (Nat.lt_succ_of_lt hj), storeEntry_wok_other _ (Nat.ne_of_lt hj)]

/-- The loop reports every entry, each in one bitmap (41_multitarget.md R148). -/
theorem StoresFrom.atomicStores_reports (h : StoresFrom w i l s) (b : Nat) (v : Bool) :
    ReportsBelow (i + l.length) (atomicStores w b v i l s).wok (atomicStores w b v i l s).wfail := by
  induction l generalizing i s with
  | nil => exact h.reports
  | cons a l ih =>
    rw [atomicStores, List.length_cons, ← Nat.add_assoc, Nat.add_right_comm]
    exact ih (h.next _)

/-- The store of entry `i` changes bit b of its own slot, to v, and only where WOK then reports it accepted
(41_multitarget.md R145, R148; 20_memory.md R72). -/
theorem StoresFrom.getLsbD_storeEntry (h : StoresFrom w i (a :: l) s) {b : Nat} (hb : b < w.bits) (v : Bool)
    (t j : Nat) :
    (slotLookup (storeEntry w i a (bitSetWhole w (memRead w a s) b v) s).slots t).getLsbD j =
      if j = b ∧ a.toNat = t ∧
          (storeEntry w i a (bitSetWhole w (memRead w a s) b v) s).wok.getLsbD i = true then v
      else (slotLookup s.slots t).getLsbD j := by
  have hi : i < 64 := Nat.lt_of_lt_of_le (by simp) h.room
  obtain ⟨-, e⟩ | ⟨-, e⟩ := storeEntry_cases w i a (bitSetWhole w (memRead w a s) b v) s <;> rw [e]
  · have hok : (s.wok ||| 1#64 <<< i).getLsbD i = true := by
      simp only [BitVec.getLsbD_or, getLsbD_one_shiftLeft, hi, and_self, decide_true, Bool.or_true]
    by_cases hat : a.toNat = t
    · subst hat
      rw [slotLookup_update_same h.canonical, getLsbD_storedContainer v h.fit (h.width a List.mem_cons_self) hb]
      simp only [hok, and_true]
    · rw [slotLookup_update_other _ (Ne.symm hat), if_neg fun hc => hat hc.2.1]
  · simp only [h.reports.wok_fresh (Nat.le_refl i), Bool.false_eq_true, and_false, if_false]

open Classical in
/-- What the loop leaves in each bit of each slot: bit b of a slot with an accepted entry is v, and every other bit is
as before (41_multitarget.md R145, R148, R156). -/
theorem StoresFrom.getLsbD_atomicStores (h : StoresFrom w i l s) {b : Nat} (hb : b < w.bits) (v : Bool)
    (t j : Nat) :
    (slotLookup (atomicStores w b v i l s).slots t).getLsbD j =
      if j = b ∧ Accepted l i (atomicStores w b v i l s).wok t then v else (slotLookup s.slots t).getLsbD j := by
  induction l generalizing i s with
  | nil =>
    rw [if_neg fun hc => not_accepted_nil _ _ _ hc.2]
    rfl
  | cons a l ih =>
    rw [atomicStores, ih (h.next _), h.getLsbD_storeEntry hb v t j, ← atomicStores_wok_below (Nat.lt_succ_self i),
      ← ite_or]
    refine if_congr ?_ rfl rfl
    rw [← and_or_left, or_comm, accepted_cons]

end Loop

/-! ### The whole command -/

/-- No entry is reported in both bitmaps (41_multitarget.md R148). -/
theorem ReportsBelow.not_both {i j : Nat} {ok fail : BitVec 64} (h : ReportsBelow i ok fail)
    (hok : ok.getLsbD j = true) : fail.getLsbD j ≠ true := by
  intro hfail
  have hboth : (ok &&& fail).getLsbD j = true := by rw [BitVec.getLsbD_and, hok, hfail, Bool.and_self]
  rw [h.1, BitVec.getLsbD_zero] at hboth
  exact Bool.false_ne_true hboth

section Whole
variable {s : State} {w : Width} {n : BitVec 6} {b : BitVec 16} {v : Bool}

/-- The entries of a view are the target registers below `n` (41_multitarget.md R130). -/
theorem viewHandles_getElem? (hn : n.toNat ≤ s.cfg.nmax) {k : Nat} {a : BitVec 8} :
    (viewHandles n s)[k]? = some a ↔ k < n.toNat ∧ s.tgt[k]? = some a := by
  rw [viewHandles, Nat.min_eq_left hn, List.getElem?_take]
  by_cases hk : k < n.toNat <;> simp [hk]

theorem viewHandles_length (h : Inv s) (hn : n.toNat ≤ s.cfg.nmax) : (viewHandles n s).length = n.toNat := by
  rw [viewHandles, List.length_take, h.tgtLength, Nat.min_eq_left hn, Nat.min_eq_left hn]

/-- Command start stands at entry 0 of WRITEALL's loop over a view of width `w` (10_state.md R43). -/
theorem storesFrom_start (h : Inv s) (hn : n.toNat ≤ s.cfg.nmax)
    (hcaps : ∀ a ∈ viewHandles n s, s.cfg.slotCap a.toNat = some w) (c : BitVec 32) :
    StoresFrom w 0 (viewHandles n s) (commandStart c s) where
  canonical := h.slotsCanonical
  fit := h.slotsFit
  width := hcaps
  reports := reportsBelow_zero
  room := by
    rw [viewHandles_length h hn]
    omega

/-- WRITEALL of a legal view is its loop over the entries, and then the code that WFAIL gives (41_multitarget.md R145,
R149). -/
theorem atomicCommand_of_writeall (hpos : 0 < n.toNat) (hn : n.toNat ≤ s.cfg.nmax)
    (hcaps : ∀ a ∈ viewHandles n s, s.cfg.slotCap a.toNat = some w) (hb : b.toNat < w.bits) :
    let c := encode (.writeall w n b v)
    let u := atomicStores w b.toNat v 0 (viewHandles n s) (commandStart c s)
    atomicCommand c s = raiseError (writeallErr u.wfail) u := by
  intro c u
  obtain ⟨-, -, -, -, hnt, -⟩ := Laws.EncodedFields.writeall w n b v
  have hview : (snapshot c s).handles = viewHandles n s := snapshot_handles_of_ntField hnt
  have hlegal : viewCheck s.cfg w n.toNat b.toNat (snapshot c s) = none :=
    viewCheck_eq_none.mpr ⟨Nat.ne_of_gt hpos, hb, hview ▸ hcaps⟩
  have hd := decodeOfEncodeIsTheCommand s.cfg.nmax (.writeall w n b v) (decide_eq_true hn)
  rw [← outcome_commandStart, outcome_of_run rfl, outcome_of_writeall (by exact hd), writeallOutcome, commandStart_cfg,
    hlegal, hview]
  rfl

end Whole

/-- Settles O48: each bit of each slot, and each report, is what the loop leaves there. -/
theorem writeallReportsAndPreserves : Obligations.WriteallReportsAndPreserves := by
  intro s w n b v h hu ht hpos hn hview hb
  have hcaps : ∀ a ∈ viewHandles n s, s.cfg.slotCap a.toNat = some w := fun a ha => by
    obtain ⟨k, hk⟩ := List.mem_iff_getElem?.mp ha
    obtain ⟨hkn, hka⟩ := (viewHandles_getElem? hn).mp hk
    obtain ⟨a', ha', hw⟩ := hview k hkn
    obtain rfl : a = a' := Option.some.inj (hka.symm.trans ha')
    exact hw
  have hstores := storesFrom_start h hn hcaps (encode (.writeall w n b v))
  have hrep := hstores.atomicStores_reports b.toNat v
  rw [viewHandles_length h hn, Nat.zero_add] at hrep
  have hbits := hstores.getLsbD_atomicStores hb v
  refine ⟨_, unitStepsEqualAtomicCommand s _ h hu ht, atomicRun_unit _ _, ?_⟩
  rw [atomicCommand_of_writeall hpos hn hcaps hb]
  refine ⟨hrep.2, hrep.1, (endStatus_err _ _).trans (errBits_writeallErr _), endStatus_busy _ _,
    fun i a hi ha hok => ?accepted, fun a j hj => ?other, fun a hfail => ?failed⟩
  case accepted =>
    have hentry := (viewHandles_getElem? hn).mpr ⟨hi, ha⟩
    exact (hbits _ _).trans (if_pos ⟨rfl, i, a, hentry, rfl, by rw [Nat.zero_add]; exact hok⟩)
  case other => exact (hbits _ _).trans (if_neg fun hc => hj hc.1)
  case failed =>
    refine BitVec.eq_of_getLsbD_eq fun j _ => (hbits a j).trans (if_neg ?_)
    rintro ⟨-, k, x, hk, hx, hok⟩
    rw [Nat.zero_add] at hok
    obtain ⟨hkn, hkx⟩ := (viewHandles_getElem? hn).mp hk
    exact hrep.not_both hok (hfail k x hkn hkx hx)

end Sys2Proof.Machine
end

section
/-! PROOFS. Errors and rest (60_exceptions.md R170 to R178, R187): a command's error ends it before it has written
anything but its code, and an idle unit does nothing. -/

namespace Sys2Proof.Machine

/-! ### An idle unit and an undecodable word -/

/-- Settles O16: a turn taken off the list leaves the unit idle. -/
theorem idleUnitDoesNothing : Obligations.IdleUnitDoesNothing := by
  intro s hu
  refine ⟨fun ht => ?silent, fun rest ht => ?turn⟩
  case silent => rw [step_of_no_turns ht, unitStep_of_idle hu]
  case turn =>
    rw [step_of_turn ht]
    exact unitStep_of_idle hu

/-- Settles O15: the step raises IllegalCommand, which writes ERR and BUSY alone in STATUS. -/
theorem undecodableWordRaisesIllegalCommand : Obligations.UndecodableWordRaisesIllegalCommand := by
  intro s r why hu hp hd ht
  have hstep : step s = .next (raiseError .illegalCommand s) := by
    rw [step_of_no_turns ht, unitStep_of_illegal hu hp hd]
  exact ⟨_, hstep, endStatus_fields .illegalCommand s.status⟩

/-! ### Whole commands -/

/-- An error's STATUS is its code alone, as command start cleared every result field (10_state.md R43,
60_exceptions.md R177). -/
theorem endStatus_startStatus (e : ErrCode) :
    endStatus e startStatus = (statusErr (endStatus e startStatus)).setWidth 16 <<< 1 := by
  cases e <;> decide

/-- WRITEALL's code is OK or PartialWriteError (41_multitarget.md R149). -/
theorem errBits_writeallErr_cases (x : BitVec 64) :
    errBits (writeallErr x) = 0#3 ∨ errBits (writeallErr x) = 3#3 := by
  rw [errBits_writeallErr]
  exact ite_eq_or_eq ..

/-- How a command ends: a check raises its error on the state that command start left, or the command passes its check
and its code is OK or PartialWriteError (60_exceptions.md R170, R177). -/
theorem atomicRun_raises_or_completes (snap : Snapshot) (s : State) :
    (∃ e, atomicRun snap s = raiseError e s) ∨
    statusErr (atomicRun snap s).status = 0#3 ∨ statusErr (atomicRun snap s).status = 3#3 := by
  have hok : ∀ st, statusErr (endStatus .ok st) = 0#3 := endStatus_err .ok
  unfold atomicRun
  cases snap.decoded with
  | illegal _ => exact .inl ⟨_, rfl⟩
  | command i =>
    cases i with dsimp only
    | get w b =>
      cases containerCheck w b.toNat snap with
      | some e => exact .inl ⟨e, rfl⟩
      | none => exact .inr (.inl (hok _))
    | set w b v =>
      cases containerCheck w b.toNat snap with
      | some e => exact .inl ⟨e, rfl⟩
      | none => exact .inr (.inl (hok _))
    | read w n b =>
      cases viewCheck s.cfg w n.toNat b.toNat snap with
      | some e => exact .inl ⟨e, rfl⟩
      | none => exact .inr (.inl (hok _))
    | hasdis w n b =>
      cases viewCheck s.cfg w n.toNat b.toNat snap with
      | some e => exact .inl ⟨e, rfl⟩
      | none => exact .inr (.inl (hok _))
    | writeall w n b v =>
      cases viewCheck s.cfg w n.toNat b.toNat snap with
      | some e => exact .inl ⟨e, rfl⟩
      | none => exact .inr ((errBits_writeallErr_cases _).imp (endStatus_err _ _).trans (endStatus_err _ _).trans)

/-- Settles O49: such a code was raised on the state of command start, which has every slot and COUT as before. -/
theorem errorsHaveNoPartialEffect : Obligations.ErrorsHaveNoPartialEffect := by
  intro s c h hu ht
  refine ⟨_, unitStepsEqualAtomicCommand s c h hu ht, atomicRun_unit _ _, fun hne_ok hne_partial => ?_⟩
  obtain ⟨e, he⟩ | hok | hpartial := atomicRun_raises_or_completes (snapshot c s) (commandStart c s)
  · rw [atomicCommand, he]
    exact ⟨endStatus_startStatus e, rfl, rfl, rfl, rfl, rfl, rfl, rfl, rfl, rfl⟩
  · exact absurd hok hne_ok
  · exact absurd hpartial hne_partial

end Sys2Proof.Machine
end

section
/-! PROOFS. Reset, the launch state and the host's two hazards (70_reset_and_hazards.md R200 to R202, R210, R211). -/

namespace Sys2Proof.Machine

/-! ### Reset -/

/-- A reset turn resets the block and does nothing else (70_reset_and_hazards.md R200). -/
theorem step_of_reset {s : State} {rest : List Turn} (h : s.turns = .reset :: rest) :
    step s = .next (resetBlock (s.withTurns rest)) := step_of_turn h

/-- Settles O1: the next state is `resetBlock`'s, whose unit is idle and so has no step of its own. -/
theorem resetTurnSetsEveryRegister : Obligations.ResetTurnSetsEveryRegister := by
  intro s rest ht
  have hidle : rest = [] → step (resetBlock (s.withTurns rest)) = .next (resetBlock (s.withTurns rest)) := by
    intro hrest
    rw [step_of_no_turns (by simpa using hrest), unitStep_of_idle (resetBlock_unit _)]
  exact ⟨_, step_of_reset ht, rfl, rfl, rfl, rfl, rfl, rfl, rfl, rfl, rfl, rfl, rfl, rfl, rfl, rfl, rfl, rfl,
    rfl, rfl, hidle⟩

/-! ### The launch state -/

/-- Every register number reads 0 at launch: a target register is one of NMAX zeros, a number past them is reserved
(70_reset_and_hazards.md R200, 10_state.md R32). -/
theorem readReg_launch (cfg : Config) (m : SlotMemory) (n : BitVec 8) : readReg n (State.launch cfg m) = 0#64 := by
  unfold readReg
  cases regOf (State.launch cfg m).cfg.nmax n with
  | tgt i =>
    have hzero : (List.replicate cfg.nmax 0#8).getD i 0#8 = 0#8 := by
      rw [List.getD_eq_getElem?_getD, List.getElem?_getD_replicate_default_eq]
    simp only [launch_tgt, hzero, BitVec.setWidth_zero]
  | _ => rfl

/-- Settles O2: every register reads 0 at launch, and State.reset is a launch state. -/
theorem launchStateReadsZeroEverywhere : Obligations.LaunchStateReadsZeroEverywhere := fun cfg m n =>
  ⟨readReg_launch cfg m n, rfl, readReg_launch Config.atReset [] n, rfl⟩

/-- The launch state meets the invariant with any legal slot contents (70_reset_and_hazards.md R201). -/
theorem inv_launch {cfg : Config} {m : SlotMemory} (hwf : Memory.wf m) (hfit : slotsFit cfg m) :
    Inv (State.launch cfg m) where
  slotsCanonical := hwf
  slotsFit := hfit
  tgtLength := List.length_replicate
  statusReserved := by rw [launch_status]; decide
  coutContainer := ⟨.w8, rfl, by show (0#64 ++ 0#64 ++ 0#64 ++ 0#64).toNat < 2 ^ 8; decide⟩
  unitLegal := (unitInv_of_idle rfl).mpr (idleInv_of_zero rfl rfl rfl)

/-- Settles O3: State.reset is the launch state that lists no slot. -/
theorem launchStateMeetsInvariant : Obligations.LaunchStateMeetsInvariant :=
  ⟨fun _ _ => inv_launch, inv_launch ⟨.nil, nofun⟩ nofun⟩

/-! ### The two hazards -/

/-- A register write while BUSY = 1 is a fault, whatever the number (70_reset_and_hazards.md R211; log 8). -/
theorem step_of_writeReg_busy {s : State} {n : BitVec 8} {v : BitVec 64} {rest : List Turn}
    (hb : statusBusy s.status = true) (h : s.turns = .host (.writeReg n v) :: rest) :
    step s = .fault .writeWhileBusy := by
  simp only [step_of_turn h, takeTurn, hostAccess, withTurns_status, hb, if_true]

/-- Settles O7: BUSY stops the write before its number is looked at; a read does not look at BUSY. -/
theorem registerWriteWhileBusyFaults : Obligations.RegisterWriteWhileBusyFaults := fun _ _ _ hb =>
  ⟨fun _ => step_of_writeReg_busy hb, step_of_readReg⟩

/-- Every handle below NSLOT names a slot (20_memory.md R70). -/
theorem slotCap_of_lt_nslot {cfg : Config} {t : Nat} (h : t < cfg.nslot) : ∃ w, cfg.slotCap t = some w :=
  ⟨_, List.getElem?_eq_getElem h⟩

/-- An access to an existing slot that the running view lists is a fault (70_reset_and_hazards.md R210). -/
theorem hostSlot_of_listed {a : BitVec 8} {s : State} {w : Width} (f : Width → State)
    (hw : s.cfg.slotCap a.toNat = some w) (hl : runningViewLists a s = true) :
    hostSlot a s f = .fault .targetRace := by
  simp only [hostSlot, hw, hl, if_true]

/-- Settles O8: the unit's snapshot lists the slot, and each of the three accesses is a `hostSlot` access. -/
theorem accessToRunningViewFaults : Obligations.AccessToRunningViewFaults := by
  intro s r w n b v a x z rest hu hd ha hslot hturn
  have hl : runningViewLists a s = true := by
    obtain hread | hhasdis | hwriteall := hd
    · exact runningViewLists_of_mem hu (.inl (.inl hread)) ha
    · exact runningViewLists_of_mem hu (.inl (.inr hhasdis)) ha
    · exact runningViewLists_of_mem hu (.inr ⟨v, hwriteall⟩) ha
  obtain ⟨cap, hcap⟩ := slotCap_of_lt_nslot hslot
  obtain hload | hstore | hsigned := hturn
  · exact (step_of_turn hload).trans (hostSlot_of_listed _ hcap hl)
  · exact (step_of_turn hstore).trans (hostSlot_of_listed _ hcap hl)
  · exact (step_of_turn hsigned).trans (hostSlot_of_listed _ hcap hl)

end Sys2Proof.Machine
end
